-- ==== Sys2Proof/Word.lean ====
section
/-! DEFINITION. The 32-bit word of PQCM: a register, a command word, an element of a memory.

Registers are 32 bits wide (spec/10_state.md R28), a command is one 32-bit word (spec/30_encoding.md R90),
and every memory element travels as 32 bits (spec/20_memory.md R63, R64). -/

namespace Sys2Proof

/-- A 32-bit value: a register, a command word, the bit pattern of a `REAL`, a packed word, a decoded index. -/
abbrev Word := BitVec 32

end Sys2Proof
end

