-- ==== Sys2Proof/Syntax.lean ====
section
/-! DEFINITION. The fourteen commands of PQCM (spec/30_encoding.md R93), one constructor per row of
spec/opcode_table.json. Operands are the command word's fields as they stand, unsigned and unscaled (R92). -/

namespace Sys2Proof

/-- A command of PQCM. -/
inductive Instr where
  /-- `NOP` (R110) -/
  | nop
  /-- `RESET` (R111) -/
  | reset
  /-- `BIND s` (R112): `s` is the slot number, bits 1:0 of the word. -/
  | bind (slot : BitVec 2)
  /-- `RESHAPE` (R137) -/
  | reshape
  /-- `MULV r, j` (R152): batch row `r`, slice `j`. -/
  | mulv (r j : BitVec 12)
  /-- `MULB j` (R153): slice `j`. -/
  | mulb (j : BitVec 12)
  /-- `MULS n, j` (R154): image `n`, slice `j`. -/
  | muls (n j : BitVec 12)
  /-- `ZERO` (R170) -/
  | zero
  /-- `GACV r, j` (R172): batch row `r`, slice `j`. -/
  | gacv (r j : BitVec 12)
  /-- `GACB j` (R173): slice `j`. -/
  | gacb (j : BitVec 12)
  /-- `GACS n, j` (R175): image `n`, slice `j`. -/
  | gacs (n j : BitVec 12)
  /-- `BIAS` (R176) -/
  | bias
  /-- `FWDL` (R190) -/
  | fwdl
  /-- `FWDS` (R191) -/
  | fwds
  deriving DecidableEq, Repr

end Sys2Proof
end

