-- ==== Sys2Proof/WellFormed.lean ====
section
/-! DEFINITION. Which terms of `Instr` are commands of PQCM. The field widths are in the types; the one check
left is the slot number of `BIND` (spec/30_encoding.md R94: `BIND` with slot 3 is illegal). -/

namespace Sys2Proof

/-- The instruction is one a legal command word stands for (R93, R94). -/
def Instr.wellFormed : Instr → Bool
  | .nop => true
  | .reset => true
  | .bind slot => slot != 3#2
  | .reshape => true
  | .mulv _ _ => true
  | .mulb _ => true
  | .muls _ _ => true
  | .zero => true
  | .gacv _ _ => true
  | .gacb _ => true
  | .gacs _ _ => true
  | .bias => true
  | .fwdl => true
  | .fwds => true

end Sys2Proof
end

