-- ==== Sys2Proof/Decode.lean ====
section
/-! DEFINITION. The command word: fields, decoder, encoder (spec/30_encoding.md R90 to R94, R98 steps 2 and 3). -/

namespace Sys2Proof

/-- Why a word is no command (R94), in the order of R98: each has its own `ERRINFO`. -/
inductive Illegal where
  /-- The opcode is reserved (R98 step 2). -/
  | reservedOpcode
  /-- A field that the format says must be zero is not (R98 step 3). -/
  | nonzeroField
  /-- `BIND` with slot 3 (R98 step 3). -/
  | bindSlotThree
  deriving DecidableEq, Repr

/-- The `ERRINFO` of an illegal word (R94). -/
def Illegal.info : Illegal → Nat
  | .reservedOpcode => 0
  | .nonzeroField => 1
  | .bindSlotThree => 2

/-- Field `OPC`, bits 31:24 (R90). -/
def opcField (c : Word) : BitVec 8 := c.extractLsb' 24 8

/-- Field `R`, bits 23:12 (R90). -/
def rField (c : Word) : BitVec 12 := c.extractLsb' 12 12

/-- Field `J`, bits 11:0 (R90). -/
def jField (c : Word) : BitVec 12 := c.extractLsb' 0 12

/-- The slot number of format `S`, bits 1:0 (R91). -/
def slotField (c : Word) : BitVec 2 := c.extractLsb' 0 2

/-- Bits 11:2, which format `S` wants zero (R91). -/
def slotPadField (c : Word) : BitVec 10 := c.extractLsb' 2 10

/-- Formats `Z` and `J` of R91: the instruction, if the must-be-zero part of the word is zero. -/
def whenZero (mustBeZero : Bool) (i : Instr) : Except Illegal Instr :=
  if mustBeZero then .ok i else .error .nonzeroField

/-- Format `Z` (R91): bits 23:0 must be zero. -/
def formatZ (c : Word) (i : Instr) : Except Illegal Instr :=
  whenZero (rField c == 0 && jField c == 0) i

/-- Format `S` (R91): bits 23:2 must be zero, then the slot must not be 3 (R98 step 3). -/
def formatS (c : Word) : Except Illegal Instr :=
  if rField c == 0 && slotPadField c == 0 then
    if slotField c == 3#2 then .error .bindSlotThree else .ok (.bind (slotField c))
  else .error .nonzeroField

/-- The command a word stands for, or the name of what makes it illegal (R93, R94; the order is that of R98). -/
def decode (c : Word) : Except Illegal Instr :=
  match (opcField c).toNat with
  | 0x00 => formatZ c .nop
  | 0x01 => formatZ c .reset
  | 0x02 => formatS c
  | 0x03 => formatZ c .reshape
  | 0x10 => .ok (.mulv (rField c) (jField c))
  | 0x11 => whenZero (rField c == 0) (.mulb (jField c))
  | 0x12 => .ok (.muls (rField c) (jField c))
  | 0x20 => formatZ c .zero
  | 0x21 => .ok (.gacv (rField c) (jField c))
  | 0x22 => whenZero (rField c == 0) (.gacb (jField c))
  | 0x23 => .ok (.gacs (rField c) (jField c))
  | 0x24 => formatZ c .bias
  | 0x30 => formatZ c .fwdl
  | 0x31 => formatZ c .fwds
  | _ => .error .reservedOpcode

/-- The word `(OPC << 24) | (r << 12) | j` (R96). -/
def assemble (opc : BitVec 8) (r j : BitVec 12) : Word := opc ++ r ++ j

/-- The command word of an instruction (R93, R96). -/
def encode : Instr → Word
  | .nop => assemble 0x00#8 0 0
  | .reset => assemble 0x01#8 0 0
  | .bind slot => assemble 0x02#8 0 (slot.setWidth 12)
  | .reshape => assemble 0x03#8 0 0
  | .mulv r j => assemble 0x10#8 r j
  | .mulb j => assemble 0x11#8 0 j
  | .muls n j => assemble 0x12#8 n j
  | .zero => assemble 0x20#8 0 0
  | .gacv r j => assemble 0x21#8 r j
  | .gacb j => assemble 0x22#8 0 j
  | .gacs n j => assemble 0x23#8 n j
  | .bias => assemble 0x24#8 0 0
  | .fwdl => assemble 0x30#8 0 0
  | .fwds => assemble 0x31#8 0 0

/-- The `match` column of R93: the fixed bits of the command's words. -/
def matchBits : Instr → Word
  | .nop => 0x00000000#32
  | .reset => 0x01000000#32
  | .bind _ => 0x02000000#32
  | .reshape => 0x03000000#32
  | .mulv _ _ => 0x10000000#32
  | .mulb _ => 0x11000000#32
  | .muls _ _ => 0x12000000#32
  | .zero => 0x20000000#32
  | .gacv _ _ => 0x21000000#32
  | .gacb _ => 0x22000000#32
  | .gacs _ _ => 0x23000000#32
  | .bias => 0x24000000#32
  | .fwdl => 0x30000000#32
  | .fwds => 0x31000000#32

/-- The `mask` column of R93: which bits of the command's words are fixed. -/
def maskBits : Instr → Word
  | .nop => 0xFFFFFFFF#32
  | .reset => 0xFFFFFFFF#32
  | .bind _ => 0xFFFFFFFC#32
  | .reshape => 0xFFFFFFFF#32
  | .mulv _ _ => 0xFF000000#32
  | .mulb _ => 0xFFFFF000#32
  | .muls _ _ => 0xFF000000#32
  | .zero => 0xFFFFFFFF#32
  | .gacv _ _ => 0xFF000000#32
  | .gacb _ => 0xFFFFF000#32
  | .gacs _ _ => 0xFF000000#32
  | .bias => 0xFFFFFFFF#32
  | .fwdl => 0xFFFFFFFF#32
  | .fwds => 0xFFFFFFFF#32

/-- The opcodes of R93; every other value is reserved (R94). -/
def definedOpcodes : List (BitVec 8) :=
  [0x00, 0x01, 0x02, 0x03, 0x10, 0x11, 0x12, 0x20, 0x21, 0x22, 0x23, 0x24, 0x30, 0x31]

/-- What the decoder reads from an instruction of `nbits` bits given as a number, bit 0 least significant, every
bit above `nbits` zero. Every command is one 32-bit word (R90), so a number that does not fit one is none. -/
def decodeTableWord (nbits w : Nat) : Option Instr :=
  let bits := w % 2 ^ nbits
  if bits < 2 ^ 32 then
    match decode (BitVec.ofNat 32 bits) with
    | .ok i => some i
    | .error _ => none
  else none

end Sys2Proof
end

