-- ==== Sys2Proof/Config.lean ====
section
/-! DEFINITION. What an implementation of PQCM fixes (spec/00_scope.md R9) and the values the spec leaves free.

The free values are opaque constants: nothing can be proved about which value they are. -/

namespace Sys2Proof

/-- The seven memory spaces of spec/10_state.md R40. -/
inductive Space where
  | cbmem | biasmem | idxmem | inmem | outmem | decmem | lutmem
  deriving DecidableEq, Repr

/-- What a host bus address names: a register number or an element of a space (spec/20_memory.md R64). -/
inductive Place where
  | register (n : Nat)
  | element (sp : Space) (i : Nat)
  deriving DecidableEq, Repr

/-- The parameter `RealArith` of spec/00_scope.md R11: a type, a zero, an addition and a multiplication, total
functions of their operands alone. The reference instance is `Sys2Proof.Machine.binary32`. -/
structure RealArith (α : Type) where
  rzero : α
  radd : α → α → α
  rmul : α → α → α

/-- The other admissible instance that spec/00_scope.md R11 names: the exact rationals. -/
def exactRationals : RealArith ℚ where
  rzero := 0
  radd := fun a b => a + b
  rmul := fun a b => a * b

/-- The parameter record of R9 (spec/10_state.md R47): what the model takes as an argument. `α` is the type `REAL`.

All seven memories are lists over one element type, so the record also says how a 32-bit word (a packed word, a
decoded index, a register value on the bus) stands in it (DESIGN CHOICE, log 16; safe), and it gives the contents that
the memories have at power-on (spec/70_reset_and_hazards.md R231: an arbitrary initial memory, a parameter). -/
structure Params (α : Type) where
  /-- `RealArith` (R11) -/
  real : RealArith α
  /-- `CB_CAP` to `LUT_CAP`, in elements -/
  capacity : Space → Nat
  /-- `MAX_BITS`, the largest legal `BITS = log2 K` -/
  maxBits : Nat
  /-- `HOST_MAP`: what an access of so many bytes at this bus address names; none where the bus refuses it -/
  hostMap : (address bytes : Nat) → Option Place
  /-- how a 32-bit word stands in an element -/
  ofWord : Word → α
  /-- the 32-bit word that stands in an element -/
  toWord : α → Word
  /-- what the memories hold at power-on (R231, U4, U5; log 6) -/
  initial : Space → Nat → α

/-- The column "constraint" of R9, and what the record adds to it: an extent fits in its 32-bit register because a
capacity does (DEDUCED from spec/10_state.md R41, log 16; safe), and a word comes back from its element (log 16). -/
structure Params.Valid {α : Type} (p : Params α) : Prop where
  capacity_pos : ∀ sp, 1 ≤ p.capacity sp
  capacity_fits : ∀ sp, p.capacity sp < 2 ^ 32
  decCapacity : p.capacity .decmem < 2 ^ 26
  lutCapacity : 2 ≤ p.capacity .lutmem
  maxBits_range : 1 ≤ p.maxBits ∧ p.maxBits ≤ 32
  hostMap_injective : ∀ a a' n n' place, p.hostMap a n = some place → p.hostMap a' n' = some place →
    a = a' ∧ n = n'
  toWord_ofWord : ∀ w, p.toWord (p.ofWord w) = w

namespace Config

/-! ### The default column of R9, taken by the reference record

DESIGN CHOICE (log 3), unsafe for a claim about the reference record that rests on the numbers. -/

/-- Capacity of a memory space (R9, the default column). -/
def capacity : Space → Nat
  | .cbmem => 65536
  | .biasmem => 4096
  | .idxmem => 65536
  | .inmem => 262144
  | .outmem => 262144
  | .decmem => 1048576
  | .lutmem => 262144

/-- `MAX_BITS`, the largest legal `BITS = log2 K` (R9, the default column). -/
def maxBits : Nat := 16

/-- The 12-bit row and slice fields bound `NUM_SLICES` and `BATCH` (R9: fixed by the spec, not a parameter). -/
def fieldLimit : Nat := 4096

/-! ### Free values -/

/-- What an element that nothing has written holds: any value (spec/70_reset_and_hazards.md R231,
spec/93_implementation_defined.md U4, U5). Log 6, log 8; safe. -/
opaque unwritten : Space → Nat → Word

/-- Sign and fraction (less one) of the NaN that an addition of these operands gives (U6). Log 5; safe. -/
opaque nanOfAdd : Word → Word → Bool × Fin 8388607

/-- Sign and fraction (less one) of the NaN that a multiplication of these operands gives (U6). Log 5; safe. -/
opaque nanOfMul : Word → Word → Bool × Fin 8388607

end Config

end Sys2Proof
end

