-- ==== Sys2Proof/Machine/Binary32.lean ====
section
/-! DEFINITION. IEEE 754 binary32, the reference instance of `RealArith` (spec/00_scope.md R11, spec/42_multiplier.md
R156, spec/93_implementation_defined.md G2, G3). DESIGN CHOICE (log 4): the record `reference` takes it; IEEE 754 itself
is PRESUMED (G3). Round to nearest, ties to even; subnormals kept; no fused multiply-add; no flags. A finite operand is
an integer multiple of 2^-149, so each operation is exact on integers and is rounded once at the end. The NaN a result
may be is a free value (U6; DESIGN CHOICE, log 5; safe). -/

namespace Sys2Proof.Machine

/-- The sign bit. -/
def f32Negative (w : Word) : Bool := w.msb

/-- The exponent field, bits 30:23. -/
def f32Exponent (w : Word) : Nat := (w.extractLsb' 23 8).toNat

/-- The fraction field, bits 22:0. -/
def f32Fraction (w : Word) : Nat := (w.extractLsb' 0 23).toNat

/-- The pattern is a NaN. -/
def f32IsNaN (w : Word) : Bool := f32Exponent w == 255 && f32Fraction w != 0

/-- The pattern is an infinity. -/
def f32IsInf (w : Word) : Bool := f32Exponent w == 255 && f32Fraction w == 0

/-- The magnitude of a finite pattern, in units of 2^-149. -/
def f32Magnitude (w : Word) : Nat :=
  if f32Exponent w = 0 then f32Fraction w
  else (2 ^ 23 + f32Fraction w) * 2 ^ (f32Exponent w - 1)

/-- The value of a finite pattern, in units of 2^-149. -/
def f32Scaled (w : Word) : Int :=
  if f32Negative w then -(f32Magnitude w : Int) else (f32Magnitude w : Int)

/-- `n / 2^sh` rounded to the nearest integer, ties to even. -/
def roundTiesEven (n sh : Nat) : Nat :=
  let q := n / 2 ^ sh
  let rest := 2 * (n % 2 ^ sh)
  if 2 ^ sh < rest then q + 1
  else if rest = 2 ^ sh then q + q % 2
  else q

/-- The pattern with this sign and these 31 lower bits. -/
def f32Signed (negative : Bool) (low : Nat) : Word :=
  BitVec.ofNat 32 ((if negative then 2 ^ 31 else 0) + low)

/-- The infinity of this sign. -/
def f32Inf (negative : Bool) : Word := f32Signed negative (255 * 2 ^ 23)

/-- The binary32 pattern nearest to `n` units of 2^-(149 + p), of this sign: the significand keeps 24 bits, or
fewer where the result is subnormal, and a magnitude too large gives the infinity. With `e` the exponent of the last
kept bit, the exponent field and the fraction together are `e * 2^23` plus the rounded significand. -/
def f32Round (negative : Bool) (n p : Nat) : Word :=
  let sh := max p (n.log2 - 23)
  f32Signed negative (min ((sh - p) * 2 ^ 23 + roundTiesEven n sh) (255 * 2 ^ 23))

/-- The NaN pattern a free choice of sign and fraction stands for: every NaN is one (U6). -/
def f32NaN (choice : Bool × Fin 8388607) : Word :=
  f32Signed choice.1 (255 * 2 ^ 23 + (choice.2.val + 1))

/-- `radd` of the binary32 instance (R11, R156, G2). -/
def f32Add (a b : Word) : Word :=
  if f32IsNaN a || f32IsNaN b then f32NaN (Config.nanOfAdd a b)
  else if f32IsInf a then
    if f32IsInf b && f32Negative a != f32Negative b then f32NaN (Config.nanOfAdd a b) else a
  else if f32IsInf b then b
  else
    let z := f32Scaled a + f32Scaled b
    if z = 0 then f32Signed (f32Negative a && f32Negative b) 0
    else f32Round (decide (z < 0)) z.natAbs 0

/-- `rmul` of the binary32 instance (R11, R156). -/
def f32Mul (a b : Word) : Word :=
  let negative := f32Negative a != f32Negative b
  if f32IsNaN a || f32IsNaN b then f32NaN (Config.nanOfMul a b)
  else if f32IsInf a || f32IsInf b then
    if f32Magnitude a = 0 || f32Magnitude b = 0 then f32NaN (Config.nanOfMul a b) else f32Inf negative
  else f32Round negative (f32Magnitude a * f32Magnitude b) 149

/-- The instance of `RealArith` that a hardware implementation of PQCM-1 uses (R11): binary32, with `rzero` = +0.0. -/
def binary32 : RealArith Word where
  rzero := 0
  radd := f32Add
  rmul := f32Mul

/-- `rzero` (R11). -/
def rzero : Word := binary32.rzero

/-- `radd` (R11). -/
def radd (a b : Word) : Word := binary32.radd a b

/-- `rmul` (R11). -/
def rmul (a b : Word) : Word := binary32.rmul a b

end Sys2Proof.Machine
end

