-- ==== Sys2Proof/Machine/HostMap.lean ====
section
/-! DEFINITION. The default `HOST_MAP` (spec/20_memory.md R64, R62): which register or memory element an access at a byte
offset from the block's base names. DESIGN CHOICE (log 9): the reference record takes it. -/

namespace Sys2Proof.Machine

/-- The memory window that bits 31:24 of the offset select (R64): 1 `CBMEM` to 7 `LUTMEM`. -/
def windowSpace : Nat → Option Space
  | 1 => some .cbmem
  | 2 => some .biasmem
  | 3 => some .idxmem
  | 4 => some .inmem
  | 5 => some .outmem
  | 6 => some .decmem
  | 7 => some .lutmem
  | _ => none

/-- R64: register `n` at offset `4 * n`, `n < 64`; element `i` of a space at its window's base plus `4 * i`, `i` below
the capacity. An access of any size but 4 bytes, at an offset that is not a multiple of 4, or at one that maps to
nothing names no place (R62). -/
def defaultHostMap (offset bytes : Nat) : Option Place :=
  let window := offset / 2 ^ 24
  let inside := offset % 2 ^ 24
  if bytes = 4 ∧ inside % 4 = 0 then
    if window = 0 then
      if inside / 4 < 64 then some (.register (inside / 4)) else none
    else
      match windowSpace window with
      | some sp => if inside / 4 < Config.capacity sp then some (.element sp (inside / 4)) else none
      | none => none
  else none

end Sys2Proof.Machine
end

