-- ==== Sys2Proof/Machine/Reference.lean ====
section
/-! DEFINITION. Parameter records (spec/00_scope.md R9): the reference one, which the fixed names `State`, `exec` and
`step` are about, and one for the other instance of `RealArith` that R11 names. -/

namespace Sys2Proof.Machine

/-- The reference record: binary32 (R11; log 4), the default column of R9 (log 3, log 9), and memories that hold
unspecified values at power-on (R231; log 6). An element is 32 bits, so a word stands in it as it is. -/
def reference : Params Word where
  real := binary32
  capacity := Config.capacity
  maxBits := Config.maxBits
  hostMap := defaultHostMap
  ofWord := fun w => w
  toWord := fun w => w
  initial := Config.unwritten

/-- A record with the exact rationals (R11) and the rest of the default column, for any contents at power-on. A word
stands in an element as the natural number it is (DESIGN CHOICE, log 16; safe). -/
def rationalParams (initial : Space → Nat → ℚ) : Params ℚ where
  real := exactRationals
  capacity := Config.capacity
  maxBits := Config.maxBits
  hostMap := defaultHostMap
  ofWord := fun w => (w.toNat : ℚ)
  toWord := fun q => BitVec.ofInt 32 q.num
  initial := initial

end Sys2Proof.Machine
end

