-- ==== Sys2Proof/Machine/State.lean ====
section
/-! DEFINITION. The state of PQCM (spec/10_state.md R20), as plain data, and its value at reset (R46).

`State.Of p` is the state of the block with the parameters `p` (R47, spec/00_scope.md R9): everything the model says of
a command or an access is said of it, for every `p`. `State` is the state of the block with the reference parameters.

Two fields are the model's own and not the spec's: `pending`, the host accesses still to come (R47 and
spec/70_reset_and_hazards.md R235 call them the program; log 1), and `reply`, the bus's answer to the last one
(spec/20_memory.md R66; log 2). -/

namespace Sys2Proof.Machine

/-- `PHASE` (R24). `reshaped` exists only inside a `RESHAPE` command and is never seen by a host access. -/
inductive Phase where
  | uninit | configured | reshaped | ready | fault
  deriving DecidableEq, Repr

/-- `LUT_KIND` (R26): which multiplier command built the table. -/
inductive LutKind where
  | none | v | b | s
  deriving DecidableEq, Repr

/-- The lookup-cache tag (R26). -/
structure LutTag where
  /-- `LUT_VALID` -/
  valid : Bool
  /-- `LUT_KIND` -/
  kind : LutKind
  /-- `LUT_J`, the slice -/
  j : BitVec 12
  /-- `LUT_R`, the batch row or image -/
  r : BitVec 12
  deriving DecidableEq, Repr

/-- The configuration registers 8 to 28 (R28). `MODE` keeps its two defined bits only (R32). -/
structure Cfg where
  mode : BitVec 2
  wbits : Word
  k : Word
  m : Word
  totalWidth : Word
  numOut : Word
  cbLen : Word
  biasLen : Word
  idxLen : Word
  batch : Word
  inWidth : Word
  inH : Word
  inW : Word
  kernelH : Word
  kernelW : Word
  padH : Word
  padW : Word
  strideH : Word
  strideW : Word
  dilH : Word
  dilW : Word
  deriving DecidableEq, Repr

/-- The derived registers 32 to 40 (R41). -/
structure Derived where
  bits : Word
  numSlices : Word
  count : Word
  outH : Word
  outW : Word
  inExtent : Word
  outExtent : Word
  reqWords : Word
  lutExtent : Word
  deriving DecidableEq, Repr

/-- The contents of one memory space: the elements that have been written, as (index, value) pairs with indices
strictly rising. An element not listed holds an unspecified value (R231, U4, U5;
DESIGN CHOICE, log 6, log 7, log 8; safe). -/
abbrev Memory (α : Type) := List (Nat × α)

/-- The canonical form of a memory: indices strictly rising, so that one content has one list. -/
abbrev Memory.wf {α : Type} (m : Memory α) : Prop := m.Pairwise (fun a b => a.1 < b.1)

/-- One host access (spec/20_memory.md R66). -/
inductive HostAccess (α : Type) where
  | regRead (n : Nat)
  | regWrite (n : Nat) (v : Word)
  | memRead (sp : Space) (i : Nat)
  | memWrite (sp : Space) (i : Nat) (v : α)
  deriving DecidableEq, Repr

/-- One access on the host bus: an address, under the default `HOST_MAP` a byte offset from the block's base, and a
size in bytes (spec/20_memory.md R64). What travels is an element; a register value is a word in it (log 16). -/
inductive BusAccess (α : Type) where
  | read (address bytes : Nat)
  | write (address bytes : Nat) (v : α)
  deriving DecidableEq, Repr

/-- What the host asks for next: an access in the block's own terms, or one that `HOST_MAP` translates (R64). -/
inductive Request (α : Type) where
  | access (a : HostAccess α)
  | bus (b : BusAccess α)
  deriving DecidableEq, Repr

/-- What the bus answers to an access (R66). A refused read returns no value (U17). -/
inductive Reply (α : Type) where
  | none
  | accepted
  | value (v : α)
  | refused
  deriving DecidableEq, Repr

/-- The state of PQCM with the parameters `p` (R20, R47) and the model's two own fields. -/
structure State.Of {α : Type} (p : Params α) where
  /-- `PHASE` (R24) -/
  phase : Phase
  /-- `BOUND[0]`, the codebook slot (R25) -/
  boundCb : Bool
  /-- `BOUND[1]`, the bias slot (R25) -/
  boundBias : Bool
  /-- `BOUND[2]`, the packed-index slot (R25) -/
  boundIdx : Bool
  /-- `LUT_VALID`, `LUT_KIND`, `LUT_J`, `LUT_R` (R26) -/
  lut : LutTag
  /-- `ERR` (R27) -/
  err : BitVec 8
  /-- `ERRINFO` (R27) -/
  errInfo : Word
  /-- `ERRCMD` (R27) -/
  errCmd : Word
  /-- registers 8 to 28 (R28) -/
  cfg : Cfg
  /-- registers 32 to 40 (R41) -/
  derived : Derived
  /-- `CBMEM` (R40) -/
  cbmem : Memory α
  /-- `BIASMEM` (R40) -/
  biasmem : Memory α
  /-- `IDXMEM` (R40) -/
  idxmem : Memory α
  /-- `INMEM` (R40) -/
  inmem : Memory α
  /-- `OUTMEM` (R40) -/
  outmem : Memory α
  /-- `DECMEM` (R40, R42) -/
  decmem : Memory α
  /-- `LUTMEM` (R40, R43) -/
  lutmem : Memory α
  /-- the model's own: the host requests not yet served (log 1) -/
  pending : List (Request α)
  /-- the model's own: the bus's answer to the last request served (log 2) -/
  reply : Reply α
  deriving DecidableEq, Repr

/-- The state of PQCM with the reference parameters. -/
abbrev State := State.Of reference

/-- Why the machine stops with a fault. It never does: a fault of the spec is an entry into phase `FAULT`, which is
a next state (spec/60_exceptions.md R212), so this type has no constructor. Safe: no behaviour is left out. -/
inductive Fault where
  deriving DecidableEq, Repr

/-- Why a step has no meaning. A refused host access is not one of these: the spec says what it does
(spec/20_memory.md R66), and it is a next state. -/
inductive Refusal where
  /-- Raised by an arm of `exec` whose instruction has no meaning yet; no arm raises it. Safe. -/
  | notModelled (mnemonic : String)
  deriving DecidableEq, Repr

/-- The three outcomes of a step of the block with the parameters `p`. -/
abbrev Result {α : Type} (p : Params α) := Host.Outcome (State.Of p) Fault Refusal

/-- The tag of an empty lookup cache: not valid, every other field 0 (R26). -/
def LutTag.empty : LutTag := { valid := false, kind := .none, j := 0, r := 0 }

/-- Configuration registers after reset (R46): all 0. -/
def Cfg.zero : Cfg where
  mode := 0
  wbits := 0
  k := 0
  m := 0
  totalWidth := 0
  numOut := 0
  cbLen := 0
  biasLen := 0
  idxLen := 0
  batch := 0
  inWidth := 0
  inH := 0
  inW := 0
  kernelH := 0
  kernelW := 0
  padH := 0
  padW := 0
  strideH := 0
  strideW := 0
  dilH := 0
  dilW := 0

/-- Derived registers outside `READY` (R41, R46): all 0. -/
def Derived.zero : Derived where
  bits := 0
  numSlices := 0
  count := 0
  outH := 0
  outW := 0
  inExtent := 0
  outExtent := 0
  reqWords := 0
  lutExtent := 0

/-- The block with the parameters `p` after power-on reset (R46; spec/70_reset_and_hazards.md R230, R231). No memory
element is listed: each holds what `p.initial` says. `pending` and `reply` are the model's own (DESIGN CHOICE, log 1,
log 2). -/
def State.Of.powerOn {α : Type} (p : Params α) : State.Of p where
  phase := .uninit
  boundCb := false
  boundBias := false
  boundIdx := false
  lut := LutTag.empty
  err := 0
  errInfo := 0
  errCmd := 0
  cfg := Cfg.zero
  derived := Derived.zero
  cbmem := []
  biasmem := []
  idxmem := []
  inmem := []
  outmem := []
  decmem := []
  lutmem := []
  pending := []
  reply := .none

/-- The machine after power-on reset (R46). -/
def State.reset : State := State.Of.powerOn reference

end Sys2Proof.Machine
end

