-- ==== Sys2Proof/Machine/Ops.lean ====
section
/-! DEFINITION. The named operations over memories and the fault record: reading and writing an element, loading a
cache, scatter-add, taking a fault (spec/60_exceptions.md R212) and the return from one (spec/40_lifecycle.md R111),
and the one shape every command has (spec/30_encoding.md R98). -/

namespace Sys2Proof.Machine

variable {α : Type} {p : Params α}

/-! ### Memories -/

/-- The listed value of element `i`, if something has written it. -/
def Memory.fetch : Memory α → Nat → Option α
  | [], _ => none
  | (a, v) :: rest, i => if a = i then some v else Memory.fetch rest i

/-- Element `i` of the memory of space `sp`: what was last written there, or what it holds since power-on
(R231, U4; log 6). -/
def Memory.read (p : Params α) (sp : Space) (m : Memory α) (i : Nat) : α :=
  (Memory.fetch m i).getD (p.initial sp i)

/-- Element `i` becomes `v`; the list stays in canonical form. -/
def Memory.write : Memory α → Nat → α → Memory α
  | [], i, v => [(i, v)]
  | (a, w) :: rest, i, v =>
    if i < a then (i, v) :: (a, w) :: rest
    else if i = a then (i, v) :: rest
    else (a, w) :: Memory.write rest i v

/-- The memory whose elements from index `a` on are the given values, and nothing else is written. -/
def Memory.ofList : Nat → List α → Memory α
  | _, [] => []
  | a, v :: vs => (a, v) :: Memory.ofList (a + 1) vs

/-- Elements `0 .. n-1` become `v`. -/
def Memory.fill (n : Nat) (v : α) (m : Memory α) : Memory α :=
  (List.range n).foldl (fun m e => Memory.write m e v) m

/-- The scatter-adds of a gather or of the bias step, in the order of the list: each contribution `(e, v)` is
`OUT[e] <- radd(OUT[e], v)`, the accumulator on the left (spec/43_gather_accumulate.md R172, R176). -/
def Memory.scatterAdd (p : Params α) (contributions : List (Nat × α)) (m : Memory α) : Memory α :=
  contributions.foldl (fun m c => Memory.write m c.1 (p.real.radd (Memory.read p .outmem m c.1) c.2)) m

/-- The memory of a space (R40). -/
def State.Of.mem (s : State.Of p) : Space → Memory α
  | .cbmem => s.cbmem
  | .biasmem => s.biasmem
  | .idxmem => s.idxmem
  | .inmem => s.inmem
  | .outmem => s.outmem
  | .decmem => s.decmem
  | .lutmem => s.lutmem

/-- The state with the memory of one space replaced. -/
def State.Of.withMem (s : State.Of p) (sp : Space) (m : Memory α) : State.Of p :=
  match sp with
  | .cbmem => { s with cbmem := m }
  | .biasmem => { s with biasmem := m }
  | .idxmem => { s with idxmem := m }
  | .inmem => { s with inmem := m }
  | .outmem => { s with outmem := m }
  | .decmem => { s with decmem := m }
  | .lutmem => { s with lutmem := m }

/-- Element `i` of a space (`MemRead` of R13). -/
def State.Of.elem (s : State.Of p) (sp : Space) (i : Nat) : α := Memory.read p sp (s.mem sp) i

/-- Element `i` of a space becomes `v` (`MemWrite` of R13). -/
def State.Of.setElem (s : State.Of p) (sp : Space) (i : Nat) (v : α) : State.Of p :=
  s.withMem sp (Memory.write (s.mem sp) i v)

/-! ### Slots -/

/-- The three parameter slots (R25). -/
inductive Slot where
  | codebook | bias | packedIndex
  deriving DecidableEq, Repr

/-- The slot number (R112). -/
def Slot.number : Slot → Nat
  | .codebook => 0
  | .bias => 1
  | .packedIndex => 2

/-- The slot a field of the command word names; 3 names none (R94, R112). -/
def slotOf (s : BitVec 2) : Option Slot :=
  match s.toNat with
  | 0 => some .codebook
  | 1 => some .bias
  | 2 => some .packedIndex
  | _ => none

/-- The slot's memory (R112). -/
def Slot.space : Slot → Space
  | .codebook => .cbmem
  | .bias => .biasmem
  | .packedIndex => .idxmem

/-- The slot a memory belongs to: the three parameter memories have one (spec/20_memory.md R68). -/
def paramSlot : Space → Option Slot
  | .cbmem => some .codebook
  | .biasmem => some .bias
  | .idxmem => some .packedIndex
  | _ => none

/-- The slot's declared length: `CB_LEN`, `BIAS_LEN`, `IDX_LEN` (R112). -/
def State.Of.declaredLength (s : State.Of p) : Slot → Nat
  | .codebook => s.cfg.cbLen.toNat
  | .bias => s.cfg.biasLen.toNat
  | .packedIndex => s.cfg.idxLen.toNat

/-- `BOUND[s]` (R25). -/
def State.Of.bound (s : State.Of p) : Slot → Bool
  | .codebook => s.boundCb
  | .bias => s.boundBias
  | .packedIndex => s.boundIdx

/-- `BOUND[s] <- b`. -/
def State.Of.setBound (s : State.Of p) (slot : Slot) (b : Bool) : State.Of p :=
  match slot with
  | .codebook => { s with boundCb := b }
  | .bias => { s with boundBias := b }
  | .packedIndex => { s with boundIdx := b }

/-- All three slots are bound. -/
def State.Of.allBound (s : State.Of p) : Bool := s.boundCb && s.boundBias && s.boundIdx

/-! ### The caches -/

/-- `LUT_VALID <- 0; LUT_KIND <- 0; LUT_J <- 0; LUT_R <- 0`. What `LUTMEM` holds is unspecified from here on and
nothing reads it (R43, R46, U5), so no element of it stays listed (DESIGN CHOICE, log 8; safe). -/
def State.Of.dropTable (s : State.Of p) : State.Of p := { s with lut := LutTag.empty, lutmem := [] }

/-- A multiplier command leaves this table with this tag (R152 to R154). Elements past the table are unspecified. -/
def State.Of.loadTable (s : State.Of p) (tag : LutTag) (entries : List α) : State.Of p :=
  { s with lut := tag, lutmem := Memory.ofList 0 entries }

/-- The block stops being forward-callable: the derived registers become 0 (R30, R68) and what `DECMEM` holds is
unspecified (R42, U5; DESIGN CHOICE, log 8; safe); the table is dropped. -/
def State.Of.leaveReady (s : State.Of p) (phase : Phase) : State.Of p :=
  { s.dropTable with phase := phase, derived := Derived.zero, decmem := [] }

/-! ### Faults -/

/-- The fault codes (spec/60_exceptions.md R200). -/
inductive ErrCode where
  | kNotPow2 | slice | widthMismatch | idxShort | decodeBounds
  | idxLong | badW | badParam | cbLen | biasLen | capacity | geom
  | seq | illegalCmd | operand
  deriving DecidableEq, Repr

/-- The value of `ERR` (R200). -/
def ErrCode.code : ErrCode → BitVec 8
  | .kNotPow2 => 0x01
  | .slice => 0x02
  | .widthMismatch => 0x03
  | .idxShort => 0x04
  | .decodeBounds => 0x05
  | .idxLong => 0x10
  | .badW => 0x11
  | .badParam => 0x12
  | .cbLen => 0x13
  | .biasLen => 0x14
  | .capacity => 0x15
  | .geom => 0x16
  | .seq => 0x20
  | .illegalCmd => 0x21
  | .operand => 0x22

/-- `sat(x) = min(x, 2^32 - 1)` (R136, R200; wherever a fault is raised: DEDUCED, log 15; safe). -/
def sat (x : Nat) : Word := BitVec.ofNat 32 (min x (2 ^ 32 - 1))

/-- `raise Fault(code, info)` during command word `c` (R212): the fault record is written and the phase becomes
`FAULT`; everything else keeps its value. -/
def raiseFault (e : ErrCode) (info : Nat) (c : Word) (s : State.Of p) : State.Of p :=
  { s with err := e.code, errInfo := sat info, errCmd := c, phase := .fault }

/-- `RESET` (R111), the return from a fault (R214): every register as after power-on (R46); the five host-writable
memories keep their contents; what the two caches hold is unspecified (R46; log 8). -/
def resetRegisters (s : State.Of p) : State.Of p :=
  { State.Of.powerOn p with
    cbmem := s.cbmem, biasmem := s.biasmem, idxmem := s.idxmem, inmem := s.inmem, outmem := s.outmem,
    pending := s.pending, reply := s.reply }

/-- One check of a command: whether it fails, and the fault it then raises. -/
structure Check where
  fails : Bool
  err : ErrCode
  info : Nat
  deriving DecidableEq, Repr

/-- The first check of a list that fails (R98, R211: it decides the fault). -/
def firstFailing : List Check → Option Check
  | [] => none
  | c :: cs => if c.fails then some c else firstFailing cs

/-- The shape of every command but `RESET` (R98, R212, R213): in `FAULT` it is ignored; otherwise its checks run in
order before anything is written, the first that fails raises its fault, and if none fails the effect happens. -/
def runCommand (c : Word) (checks : List Check) (effect : State.Of p → State.Of p) (s : State.Of p) : Result p :=
  if s.phase = .fault then .next s
  else
    match firstFailing checks with
    | some k => .next (raiseFault k.err k.info c s)
    | none => .next (effect s)

/-! ### The common checks (R98 steps 4 to 6) -/

/-- Step 4: the phase is one the command allows. -/
def phaseCheck (allowed : Bool) : Check := ⟨!allowed, .seq, 0⟩

/-- Step 4 for the commands that need `READY`. -/
def readyCheck (s : State.Of p) : Check := phaseCheck (s.phase == .ready)

/-- `MODE.OP` (R32): spatial mode. -/
def Cfg.spatial (c : Cfg) : Bool := c.mode.getLsbD 0

/-- `MODE.BIAS_EN` (R32). -/
def Cfg.biasEn (c : Cfg) : Bool := c.mode.getLsbD 1

/-- Step 5: the command requires this value of `MODE.OP`. -/
def modeCheck (s : State.Of p) (spatial : Bool) : Check := ⟨s.cfg.spatial != spatial, .seq, 1⟩

/-- Step 6 for `j`: `j >= NUM_SLICES`. -/
def sliceCheck (s : State.Of p) (j : BitVec 12) : Check :=
  ⟨decide (s.derived.numSlices.toNat ≤ j.toNat), .operand, 0⟩

/-- Step 6 for `r` (or `n`): `r >= BATCH`. -/
def rowCheck (s : State.Of p) (r : BitVec 12) : Check :=
  ⟨decide (s.cfg.batch.toNat ≤ r.toNat), .operand, 1⟩

/-- The tag check of a gather, `need(kind, j, r)` (spec/43_gather_accumulate.md R171). -/
def tagCheck (s : State.Of p) (kind : LutKind) (j r : BitVec 12) : Check :=
  ⟨!s.lut.valid || s.lut.kind != kind || s.lut.j != j || s.lut.r != r, .seq, 2⟩

end Sys2Proof.Machine
end

