-- ==== Sys2Proof/Machine/Operands.lean ====
section
/-! DEFINITION. The operand forms: where an element of each logical object lies in its flat memory
(spec/20_memory.md R70 to R77), the window coordinate of a tap (spec/43_gather_accumulate.md R174), and the product
of a codeword with an input segment (spec/42_multiplier.md R150). Index arithmetic is exact (R177). -/

namespace Sys2Proof.Machine

variable {α : Type} {p : Params α}

/-- `P = IN_H * IN_W`, the input positions of one channel. -/
def Cfg.positions (c : Cfg) : Nat := c.inH.toNat * c.inW.toNat

/-- R70: row `m`, codeword `k` of codebook slice `j`. -/
def Cfg.cbIndex (c : Cfg) (j m k : Nat) : Nat := (j * c.m.toNat + m) * c.k.toNat + k

/-- R73: input dimension `m` of slice `j`, batch row `r`. -/
def Cfg.inIndexLinear (c : Cfg) (r j m : Nat) : Nat := r * c.inWidth.toNat + j * c.m.toNat + m

/-- R74: position `pos` of channel `m` of slice `j`, image `n`. -/
def Cfg.inIndexSpatial (c : Cfg) (n j m pos : Nat) : Nat :=
  (n * c.inWidth.toNat + j * c.m.toNat + m) * c.positions + pos

/-- R75, linear mode: output unit `l` of batch row `r`. -/
def Cfg.outIndexLinear (c : Cfg) (r l : Nat) : Nat := r * c.numOut.toNat + l

/-- R75, spatial mode: position `(oh, ow)` of output channel `ch` of image `n`. `OUT_H`, `OUT_W` are derived. -/
def State.Of.outIndexSpatial (s : State.Of p) (n ch oh ow : Nat) : Nat :=
  ((n * s.cfg.numOut.toNat + ch) * s.derived.outH.toNat + oh) * s.derived.outW.toNat + ow

/-- R76, kind `B`: codeword `k` of batch row `r`. -/
def Cfg.lutIndexB (c : Cfg) (r k : Nat) : Nat := r * c.k.toNat + k

/-- R76, kind `S`: codeword `k` at input position `pos`. -/
def Cfg.lutIndexS (c : Cfg) (k pos : Nat) : Nat := k * c.positions + pos

/-- R77, linear mode: the code of slice `j` for output unit `l`. -/
def Cfg.decIndexLinear (c : Cfg) (j l : Nat) : Nat := j * c.numOut.toNat + l

/-- R77, spatial mode: the code of slice `j`, tap `(kh, kw)`, output channel `ch`. -/
def Cfg.decIndexSpatial (c : Cfg) (j kh kw ch : Nat) : Nat :=
  ((j * c.kernelH.toNat + kh) * c.kernelW.toNat + kw) * c.numOut.toNat + ch

/-- `DEC[i]` as a number. -/
def State.Of.code (s : State.Of p) (i : Nat) : Nat := (p.toWord (s.elem .decmem i)).toNat

/-- R174: the input coordinate of tap `k` at output coordinate `o` on one axis; it can be negative. -/
def tapCoordinate (o stride k dil pad : Nat) : Int := (o * stride + k * dil : Int) - pad

/-- R174: the coordinate lies in the input, so the tap contributes. -/
def inBounds (x : Int) (size : Nat) : Bool := decide (0 ≤ x ∧ x < size)

/-- R174 for the height axis. -/
def Cfg.tapRow (c : Cfg) (oh kh : Nat) : Int :=
  tapCoordinate oh c.strideH.toNat kh c.dilH.toNat c.padH.toNat

/-- R174 for the width axis. -/
def Cfg.tapCol (c : Cfg) (ow kw : Nat) : Int :=
  tapCoordinate ow c.strideW.toNat kw c.dilW.toNat c.padW.toNat

/-- R150, over any `RealArith`: the products of a codeword `d` and an input segment `x` of `M` elements, added from
`rzero` in ascending index; the codebook element is the left operand of `rmul`. -/
def dotWith (A : RealArith α) (width : Nat) (d x : Nat → α) : α :=
  (List.range width).foldl (fun acc m => A.radd acc (A.rmul (d m) (x m))) A.rzero

/-- R150: `dot(j, k, x)` on the codebook that `CBMEM` holds. -/
def State.Of.dot (s : State.Of p) (j k : Nat) (x : Nat → α) : α :=
  dotWith p.real s.cfg.m.toNat (fun m => s.elem .cbmem (s.cfg.cbIndex j m k)) x

/-- R73: the segment of batch row `r` for slice `j`. -/
def State.Of.segmentLinear (s : State.Of p) (r j m : Nat) : α := s.elem .inmem (s.cfg.inIndexLinear r j m)

/-- R74: the channels of slice `j` of image `n` at position `pos`. -/
def State.Of.segmentSpatial (s : State.Of p) (n j pos m : Nat) : α :=
  s.elem .inmem (s.cfg.inIndexSpatial n j m pos)

/-- R152: the table of batch row `r`, slice `j`: entry `k` is `dot(j, k, x)`. -/
def State.Of.tableRow (s : State.Of p) (r j : Nat) : List α :=
  (List.range s.cfg.k.toNat).map fun k => s.dot j k (s.segmentLinear r j)

/-- R153: the tables of all batch rows, in ascending row. -/
def State.Of.tableRows (s : State.Of p) (j : Nat) : List α :=
  (List.range s.cfg.batch.toNat).flatMap fun r => s.tableRow r j

/-- R154: the table of image `n`, slice `j`: codeword outer, input position inner. -/
def State.Of.tablePlanes (s : State.Of p) (n j : Nat) : List α :=
  (List.range s.cfg.k.toNat).flatMap fun k =>
    (List.range s.cfg.positions).map fun pos => s.dot j k (s.segmentSpatial n j pos)

end Sys2Proof.Machine
end

