-- ==== Sys2Proof/Machine/Flags.lean ====
section
/-! DEFINITION. `STATUS`, the lookup-cache tag and the register file as the host reads and writes them
(spec/10_state.md R23 to R32, R41). -/

namespace Sys2Proof.Machine

variable {α : Type} {p : Params α}

/-- The value of `PHASE` (R24). -/
def Phase.code : Phase → BitVec 3
  | .uninit => 0
  | .configured => 1
  | .reshaped => 2
  | .ready => 3
  | .fault => 4

/-- The value of `LUT_KIND` (R26). -/
def LutKind.code : LutKind → BitVec 2
  | .none => 0
  | .v => 1
  | .b => 2
  | .s => 3

/-- `STATUS` (R23): `PHASE` in bits 2:0, `BOUND[0]`, `BOUND[1]`, `BOUND[2]` in bits 4, 5, 6, `LUT_VALID` in bit 7,
`ERR` in bits 15:8, `LUT_KIND` in bits 17:16; bits 3 and 31:18 are reserved and 0. -/
def State.Of.statusWord (s : State.Of p) : Word :=
  BitVec.ofNat 32 (s.phase.code.toNat + s.boundCb.toNat * 2 ^ 4 + s.boundBias.toNat * 2 ^ 5
    + s.boundIdx.toNat * 2 ^ 6 + s.lut.valid.toNat * 2 ^ 7 + s.err.toNat * 2 ^ 8 + s.lut.kind.code.toNat * 2 ^ 16)

/-- `LUTTAG` (R26): bits 11:0 `LUT_J`, 23:12 `LUT_R`, 31:24 zero. -/
def State.Of.lutTagWord (s : State.Of p) : Word := BitVec.ofNat 32 (s.lut.j.toNat + s.lut.r.toNat * 2 ^ 12)

/-- `LUT_LEN` (R26): the entries of the table in the lookup cache, by kind. -/
def State.Of.lutLen (s : State.Of p) : Nat :=
  match s.lut.kind with
  | .none => 0
  | .v => s.cfg.k.toNat
  | .b => s.cfg.batch.toNat * s.cfg.k.toNat
  | .s => s.cfg.k.toNat * s.cfg.inH.toNat * s.cfg.inW.toNat

/-- A configuration register by its number (R28); none for any other number. -/
def Cfg.readReg (c : Cfg) : Nat → Option Word
  | 8 => some (c.mode.setWidth 32)
  | 9 => some c.wbits
  | 10 => some c.k
  | 11 => some c.m
  | 12 => some c.totalWidth
  | 13 => some c.numOut
  | 14 => some c.cbLen
  | 15 => some c.biasLen
  | 16 => some c.idxLen
  | 17 => some c.batch
  | 18 => some c.inWidth
  | 19 => some c.inH
  | 20 => some c.inW
  | 21 => some c.kernelH
  | 22 => some c.kernelW
  | 23 => some c.padH
  | 24 => some c.padW
  | 25 => some c.strideH
  | 26 => some c.strideW
  | 27 => some c.dilH
  | 28 => some c.dilW
  | _ => none

/-- A configuration register becomes `v`; of `MODE` only bits 1:0 are stored (R28, R30, R32). None for any other
number. -/
def Cfg.writeReg (c : Cfg) (n : Nat) (v : Word) : Option Cfg :=
  match n with
  | 8 => some { c with mode := v.setWidth 2 }
  | 9 => some { c with wbits := v }
  | 10 => some { c with k := v }
  | 11 => some { c with m := v }
  | 12 => some { c with totalWidth := v }
  | 13 => some { c with numOut := v }
  | 14 => some { c with cbLen := v }
  | 15 => some { c with biasLen := v }
  | 16 => some { c with idxLen := v }
  | 17 => some { c with batch := v }
  | 18 => some { c with inWidth := v }
  | 19 => some { c with inH := v }
  | 20 => some { c with inW := v }
  | 21 => some { c with kernelH := v }
  | 22 => some { c with kernelW := v }
  | 23 => some { c with padH := v }
  | 24 => some { c with padW := v }
  | 25 => some { c with strideH := v }
  | 26 => some { c with strideW := v }
  | 27 => some { c with dilH := v }
  | 28 => some { c with dilW := v }
  | _ => none

/-- A derived register by its number (R28, R41); none for any other number. -/
def Derived.readReg (d : Derived) : Nat → Option Word
  | 32 => some d.bits
  | 33 => some d.numSlices
  | 34 => some d.count
  | 35 => some d.outH
  | 36 => some d.outW
  | 37 => some d.inExtent
  | 38 => some d.outExtent
  | 39 => some d.reqWords
  | 40 => some d.lutExtent
  | _ => none

/-- What a host read of register `n < 64` returns (R29): `CMD` and unmapped numbers read 0. -/
def State.Of.readReg (s : State.Of p) (n : Nat) : Word :=
  match n with
  | 0 => s.statusWord
  | 2 => s.errInfo
  | 3 => s.errCmd
  | 4 => s.lutTagWord
  | _ =>
    match s.cfg.readReg n with
    | some v => v
    | none => (s.derived.readReg n).getD 0

end Sys2Proof.Machine
end

