-- ==== Sys2Proof/Machine/Lifecycle.lean ====
section
/-! DEFINITION. `NOP`, `RESET`, `BIND` (spec/40_lifecycle.md R110 to R112). -/

namespace Sys2Proof.Machine

variable {α : Type} {p : Params α}

/-- `NOP` (R110): nothing changes. -/
def execNop (s : State.Of p) : Result p := runCommand (encode .nop) [] id s

/-- `RESET` (R111): the one command that also runs in `FAULT` (R98 step 1, R213). -/
def execReset (s : State.Of p) : Result p := .next (resetRegisters s)

/-- The checks of `BIND` (R94, R112): slot 3 is illegal (DEDUCED, log 12; safe); the declared
length is neither 0 nor above the capacity. -/
def bindChecks (slot : BitVec 2) (s : State.Of p) : List Check :=
  match slotOf slot with
  | none => [⟨true, .illegalCmd, Illegal.bindSlotThree.info⟩]
  | some sl =>
    [⟨s.declaredLength sl == 0 || decide (p.capacity sl.space < s.declaredLength sl), .capacity,
      sl.number + 1⟩]

/-- The effect of `BIND` (R112): the slot is bound; the binding that completes the set ends `UNINIT`. -/
def bindEffect (slot : BitVec 2) (s : State.Of p) : State.Of p :=
  match slotOf slot with
  | none => s
  | some sl =>
    let t := s.setBound sl true
    if t.phase = .uninit ∧ t.allBound then { t with phase := .configured } else t

/-- `BIND s` (R112). -/
def execBind (slot : BitVec 2) (s : State.Of p) : Result p :=
  runCommand (encode (.bind slot)) (bindChecks slot s) (bindEffect slot) s

end Sys2Proof.Machine
end

