-- ==== Sys2Proof/Machine/Gather.lean ====
section
/-! DEFINITION. The gather-accumulator: `ZERO`, `GACV`, `GACB`, `GACS`, `BIAS` (spec/43_gather_accumulate.md R170 to
R177). A gather is the list of its contributions `(output element, table value)` in the order of its loops, added one
after the other into `OUTMEM`. -/

namespace Sys2Proof.Machine

variable {α : Type} {p : Params α}

/-- The contributions of R172: slice `j`, the table of one row, batch row `r`. -/
def State.Of.gacvContributions (s : State.Of p) (r j : Nat) : List (Nat × α) :=
  (List.range s.cfg.numOut.toNat).map fun l =>
    (s.cfg.outIndexLinear r l, s.elem .lutmem (s.code (s.cfg.decIndexLinear j l)))

/-- The contributions of R173 to batch row `r`. -/
def State.Of.gacbRow (s : State.Of p) (j r : Nat) : List (Nat × α) :=
  (List.range s.cfg.numOut.toNat).map fun l =>
    (s.cfg.outIndexLinear r l, s.elem .lutmem (s.cfg.lutIndexB r (s.code (s.cfg.decIndexLinear j l))))

/-- The contributions of R173: every batch row, in ascending row. -/
def State.Of.gacbContributions (s : State.Of p) (j : Nat) : List (Nat × α) :=
  (List.range s.cfg.batch.toNat).flatMap (s.gacbRow j)

/-- The contribution of one tap at one output position (R174, R175): none where the input coordinate falls outside
the input; nothing is added then and nothing is clamped. -/
def State.Of.gacsAt (s : State.Of p) (n ch code kh kw oh ow : Nat) : List (Nat × α) :=
  let ih := s.cfg.tapRow oh kh
  let iw := s.cfg.tapCol ow kw
  if inBounds ih s.cfg.inH.toNat && inBounds iw s.cfg.inW.toNat then
    [(s.outIndexSpatial n ch oh ow,
      s.elem .lutmem (s.cfg.lutIndexS code (ih.toNat * s.cfg.inW.toNat + iw.toNat)))]
  else []

/-- The contributions of one tap of one output channel (R175): every output position. -/
def State.Of.gacsTap (s : State.Of p) (n j ch kh kw : Nat) : List (Nat × α) :=
  (List.range s.derived.outH.toNat).flatMap fun oh =>
    (List.range s.derived.outW.toNat).flatMap fun ow =>
      s.gacsAt n ch (s.code (s.cfg.decIndexSpatial j kh kw ch)) kh kw oh ow

/-- The contributions of R175, in the order of its loops: output channel, tap row, tap column, output position. -/
def State.Of.gacsContributions (s : State.Of p) (n j : Nat) : List (Nat × α) :=
  (List.range s.cfg.numOut.toNat).flatMap fun ch =>
    (List.range s.cfg.kernelH.toNat).flatMap fun kh =>
      (List.range s.cfg.kernelW.toNat).flatMap fun kw => s.gacsTap n j ch kh kw

/-- The contributions of R176: in linear mode the bias of every unit of every row, always; in spatial mode the bias
of a channel at every position, if `BIAS_EN`; otherwise none. -/
def State.Of.biasContributions (s : State.Of p) : List (Nat × α) :=
  if s.cfg.spatial then
    if s.cfg.biasEn then
      (List.range s.cfg.batch.toNat).flatMap fun n =>
        (List.range s.cfg.numOut.toNat).flatMap fun ch =>
          (List.range (s.derived.outH.toNat * s.derived.outW.toNat)).map fun q =>
            ((n * s.cfg.numOut.toNat + ch) * s.derived.outH.toNat * s.derived.outW.toNat + q, s.elem .biasmem ch)
    else []
  else
    (List.range s.cfg.batch.toNat).flatMap fun r =>
      (List.range s.cfg.numOut.toNat).map fun l => (s.cfg.outIndexLinear r l, s.elem .biasmem l)

/-- A gather adds its contributions and consumes the table (R171). No index is checked against a capacity (R177;
DEDUCED, log 11; safe). -/
def State.Of.gather (s : State.Of p) (contributions : List (Nat × α)) : State.Of p :=
  ({ s with outmem := Memory.scatterAdd p contributions s.outmem } : State.Of p).dropTable

/-- The effect of `ZERO` (R170). -/
def zeroEffect (s : State.Of p) : State.Of p :=
  { s with outmem := Memory.fill s.derived.outExtent.toNat p.real.rzero s.outmem }

/-- The effect of `GACV r, j` (R172). -/
def gacvEffect (r j : Nat) (s : State.Of p) : State.Of p := s.gather (s.gacvContributions r j)

/-- The effect of `GACB j` (R173). -/
def gacbEffect (j : Nat) (s : State.Of p) : State.Of p := s.gather (s.gacbContributions j)

/-- The effect of `GACS n, j` (R175). -/
def gacsEffect (n j : Nat) (s : State.Of p) : State.Of p := s.gather (s.gacsContributions n j)

/-- The effect of `BIAS` (R176): the table's tag is kept. -/
def biasEffect (s : State.Of p) : State.Of p :=
  { s with outmem := Memory.scatterAdd p s.biasContributions s.outmem }

/-- `ZERO` (R170). -/
def execZero (s : State.Of p) : Result p := runCommand (encode .zero) [readyCheck s] zeroEffect s

/-- `GACV r, j` (R172). -/
def execGacv (r j : BitVec 12) (s : State.Of p) : Result p :=
  runCommand (encode (.gacv r j))
    [readyCheck s, modeCheck s false, sliceCheck s j, rowCheck s r, tagCheck s .v j r]
    (gacvEffect r.toNat j.toNat) s

/-- `GACB j` (R173). -/
def execGacb (j : BitVec 12) (s : State.Of p) : Result p :=
  runCommand (encode (.gacb j)) [readyCheck s, modeCheck s false, sliceCheck s j, tagCheck s .b j 0]
    (gacbEffect j.toNat) s

/-- `GACS n, j` (R175). -/
def execGacs (n j : BitVec 12) (s : State.Of p) : Result p :=
  runCommand (encode (.gacs n j))
    [readyCheck s, modeCheck s true, sliceCheck s j, rowCheck s n, tagCheck s .s j n]
    (gacsEffect n.toNat j.toNat) s

/-- `BIAS` (R176). -/
def execBias (s : State.Of p) : Result p := runCommand (encode .bias) [readyCheck s] biasEffect s

end Sys2Proof.Machine
end

