-- ==== Sys2Proof/Machine/Multiplier.lean ====
section
/-! DEFINITION. The subspace codebook multiplier: `MULV`, `MULB`, `MULS` (spec/42_multiplier.md R150 to R154). -/

namespace Sys2Proof.Machine

variable {α : Type} {p : Params α}

/-- The effect of `MULV r, j` (R152). -/
def mulvEffect (r j : Nat) (s : State.Of p) : State.Of p :=
  s.loadTable { valid := true, kind := .v, j := BitVec.ofNat 12 j, r := BitVec.ofNat 12 r } (s.tableRow r j)

/-- The effect of `MULB j` (R153). -/
def mulbEffect (j : Nat) (s : State.Of p) : State.Of p :=
  s.loadTable { valid := true, kind := .b, j := BitVec.ofNat 12 j, r := 0 } (s.tableRows j)

/-- The effect of `MULS n, j` (R154). -/
def mulsEffect (n j : Nat) (s : State.Of p) : State.Of p :=
  s.loadTable { valid := true, kind := .s, j := BitVec.ofNat 12 j, r := BitVec.ofNat 12 n } (s.tablePlanes n j)

/-- `MULV r, j` (R152). -/
def execMulv (r j : BitVec 12) (s : State.Of p) : Result p :=
  runCommand (encode (.mulv r j)) [readyCheck s, modeCheck s false, sliceCheck s j, rowCheck s r]
    (mulvEffect r.toNat j.toNat) s

/-- `MULB j` (R153). -/
def execMulb (j : BitVec 12) (s : State.Of p) : Result p :=
  runCommand (encode (.mulb j)) [readyCheck s, modeCheck s false, sliceCheck s j] (mulbEffect j.toNat) s

/-- `MULS n, j` (R154). -/
def execMuls (n j : BitVec 12) (s : State.Of p) : Result p :=
  runCommand (encode (.muls n j)) [readyCheck s, modeCheck s true, sliceCheck s j, rowCheck s n]
    (mulsEffect n.toNat j.toNat) s

end Sys2Proof.Machine
end

