-- ==== Sys2Proof/Machine/Forward.lean ====
section
/-! DEFINITION. The forward commands `FWDL`, `FWDS` (spec/44_forward.md R190, R191): the effects of the commands they
are made of, one after the other, without their checks. -/

namespace Sys2Proof.Machine

variable {α : Type} {p : Params α}

/-- One slice of R190: `MULB j`, then `GACB j`. -/
def linearSlice (s : State.Of p) (j : Nat) : State.Of p := gacbEffect j (mulbEffect j s)

/-- The effect of `FWDL` (R190). -/
def fwdlEffect (s : State.Of p) : State.Of p :=
  biasEffect ((List.range s.derived.numSlices.toNat).foldl linearSlice (zeroEffect s))

/-- One slice of one image of R191: `MULS n, j`, then `GACS n, j`. -/
def spatialSlice (n : Nat) (s : State.Of p) (j : Nat) : State.Of p := gacsEffect n j (mulsEffect n j s)

/-- One image of R191: its slices in ascending order. -/
def spatialImage (s : State.Of p) (n : Nat) : State.Of p :=
  (List.range s.derived.numSlices.toNat).foldl (spatialSlice n) s

/-- The effect of `FWDS` (R191). -/
def fwdsEffect (s : State.Of p) : State.Of p :=
  biasEffect ((List.range s.cfg.batch.toNat).foldl spatialImage (zeroEffect s))

/-- `FWDL` (R190). -/
def execFwdl (s : State.Of p) : Result p :=
  runCommand (encode .fwdl) [readyCheck s, modeCheck s false] fwdlEffect s

/-- `FWDS` (R191). -/
def execFwds (s : State.Of p) : Result p :=
  runCommand (encode .fwds) [readyCheck s, modeCheck s true] fwdsEffect s

end Sys2Proof.Machine
end

