-- ==== Sys2Proof/Machine/HostAccess.lean ====
section
/-! DEFINITION. What one host access does (spec/10_state.md R28 to R31, spec/20_memory.md R60 to R69, R83), the
execution of a command word (spec/30_encoding.md R98), and the serving of the next request.

The definitions take the dispatcher `run` as an argument: `exec` for the reference record, `execOn` for every parameter
record. The access served is an argument too (spec/10_state.md R47: the program is a parameter); only `serveNext` takes
it from the state. -/

namespace Sys2Proof.Machine

variable {α : Type} {p : Params α}

/-- What a bus access means in the block's own terms (spec/20_memory.md R64, R66): none where `HOST_MAP` maps the
access to nothing, which the bus refuses. A register write carries the word in the element sent (log 16). -/
def BusAccess.translate (p : Params α) : BusAccess α → Option (HostAccess α)
  | .read address bytes =>
    match p.hostMap address bytes with
    | some (.register n) => some (.regRead n)
    | some (.element sp i) => some (.memRead sp i)
    | none => none
  | .write address bytes v =>
    match p.hostMap address bytes with
    | some (.register n) => some (.regWrite n (p.toWord v))
    | some (.element sp i) => some (.memWrite sp i v)
    | none => none

/-- The access a request asks for, if it names one. -/
def Request.translate (p : Params α) : Request α → Option (HostAccess α)
  | .access a => some a
  | .bus b => b.translate p

/-- The access is accepted (R66). -/
def State.Of.accept (s : State.Of p) : State.Of p := { s with reply := .accepted }

/-- The access is a read that returns `v` (R66). -/
def State.Of.answer (s : State.Of p) (v : α) : State.Of p := { s with reply := .value v }

/-- The access is refused: no effect on the block, no value; the bus sees an error (R66). -/
def State.Of.refuse (s : State.Of p) : State.Of p := { s with reply := .refused }

/-- Execution of the 32-bit word written to `CMD` (R31, R98). In `FAULT` a word that is no command is ignored like
every word but `RESET` (R213); otherwise it raises `ERR_ILLEGAL_CMD` (R94). A word that is a command runs. -/
def execWord (run : Instr → State.Of p → Result p) (c : Word) (s : State.Of p) : Result p :=
  match decode c with
  | .ok i => run i s
  | .error e =>
    if s.phase = .fault then .next s else .next (raiseFault .illegalCmd e.info c s)

/-- The effect of a host write that makes the configuration registers `c` (R30): ignored in `FAULT`; otherwise the
register is stored and the table dropped, and a block that was `READY` is `CONFIGURED` with derived registers 0. -/
def writeCfg (c : Cfg) (s : State.Of p) : State.Of p :=
  if s.phase = .fault then s
  else if s.phase = .ready then { s.leaveReady .configured with cfg := c }
  else { s.dropTable with cfg := c }

/-- `RegWrite(n, v)` for `n < 64` (R29 to R31): a command, a configuration register, or a write that is ignored. -/
def regWrite (run : Instr → State.Of p → Result p) (n : Nat) (v : Word) (s : State.Of p) : Result p :=
  if n = 1 then execWord run v s
  else
    match s.cfg.writeReg n v with
    | some c => .next (writeCfg c s)
    | none => .next s

/-- A host read of a memory element is accepted (R62, R67; the caches below their capacity only: DEDUCED, log 11,
safe). -/
def State.Of.readable (s : State.Of p) (sp : Space) (i : Nat) : Bool :=
  decide (i < p.capacity sp) &&
    match sp with
    | .decmem => s.phase == .ready && decide (i < s.derived.count.toNat)
    | .lutmem => s.phase == .ready && s.lut.valid && decide (i < s.lutLen)
    | _ => true

/-- A host write of a memory element is accepted (R62, R69): never to the two caches. An index at or above the capacity
is refused in `FAULT` too (DESIGN CHOICE, log 10; unsafe for the bus's answer there). -/
def writable (p : Params α) (sp : Space) (i : Nat) : Bool :=
  decide (i < p.capacity sp) &&
    match sp with
    | .decmem => false
    | .lutmem => false
    | _ => true

/-- The effect of an accepted host write of a memory element (R68, R69, R83): nothing in `FAULT`; a parameter
element unbinds its slot if that was bound, and the block is `UNINIT`; an input element drops the table. -/
def writeElem (sp : Space) (i : Nat) (v : α) (s : State.Of p) : State.Of p :=
  if s.phase = .fault then s
  else
    let t := s.setElem sp i v
    match paramSlot sp with
    | some slot => if s.bound slot then (t.setBound slot false).leaveReady .uninit else t
    | none => if sp = .inmem then t.dropTable else t

/-- One host access (R66): its effect, the command it starts if it writes `CMD`, and the bus's answer. -/
def serveAccess (run : Instr → State.Of p → Result p) (a : HostAccess α) (s : State.Of p) : Result p :=
  match a with
  | .regRead n => if n < 64 then .next (s.answer (p.ofWord (s.readReg n))) else .next s.refuse
  | .regWrite n v => if n < 64 then regWrite run n v s.accept else .next s.refuse
  | .memRead sp i => if s.readable sp i then .next (s.answer (s.elem sp i)) else .next s.refuse
  | .memWrite sp i v => if writable p sp i then .next (writeElem sp i v s.accept) else .next s.refuse

/-- One request: an access as it stands, or a bus access through `HOST_MAP` (R64), refused where it names nothing. -/
def serve (run : Instr → State.Of p → Result p) (q : Request α) (s : State.Of p) : Result p :=
  match q.translate p with
  | some a => serveAccess run a s
  | none => .next s.refuse

/-- One step: the next pending host request is served (R60); with none the block is idle and keeps all state
(spec/60_exceptions.md R221). -/
def serveNext (run : Instr → State.Of p → Result p) (s : State.Of p) : Result p :=
  match s.pending with
  | [] => .next s
  | q :: rest => serve run q { s with pending := rest }

/-- The host's next request is the write of this command word to `CMD` (R31). -/
def State.Of.submit (s : State.Of p) (c : Word) : State.Of p :=
  { s with pending := .access (.regWrite 1 c) :: s.pending }

end Sys2Proof.Machine
end

