-- ==== Sys2Proof/Machine/Geometry.lean ====
section
/-! DEFINITION. The geometry that the configuration registers describe, in unbounded integers (spec/00_scope.md R13),
the derived quantities (spec/10_state.md R41, spec/41_decoder_reshape.md R138) and the checks of `RESHAPE` (R136). -/

namespace Sys2Proof.Machine

variable {α : Type} {p : Params α}

/-- `x = 2^e` for a natural `e` (R136). -/
def isPow2 (x : Nat) : Bool := x != 0 && x == 2 ^ x.log2

/-- `ceil_div(a, b)` (R13). -/
def ceilDiv (a b : Nat) : Nat := (a + b - 1) / b

/-- The numerator of the output size formula on one axis (R138); negative where the dilated kernel is larger than
the padded input. -/
def windowSlack (size pad dil kernel : Nat) : Int :=
  (size : Int) + 2 * pad - (dil * ((kernel : Int) - 1) + 1)

/-- The output size on one axis (R138); used only where the numerator is not negative. -/
def outSize (size pad dil kernel stride : Nat) : Nat :=
  (windowSlack size pad dil kernel).toNat / stride + 1

/-- The quantities of R41, before they are put into registers. -/
structure Geometry where
  bits : Nat
  numSlices : Nat
  count : Nat
  outH : Nat
  outW : Nat
  inExtent : Nat
  outExtent : Nat
  reqWords : Nat
  lutExtent : Nat
  deriving DecidableEq, Repr

/-- `log2(K)` (R41). -/
def Cfg.codeBits (c : Cfg) : Nat := c.k.toNat.log2

/-- `IN_WIDTH div M` (R41). -/
def Cfg.slices (c : Cfg) : Nat := c.inWidth.toNat / c.m.toNat

/-- `COUNT` (R41). -/
def Cfg.codeCount (c : Cfg) : Nat :=
  if c.spatial then c.slices * c.kernelH.toNat * c.kernelW.toNat * c.numOut.toNat
  else c.numOut.toNat * c.slices

/-- The slack of the height axis (R136 check 8b). -/
def Cfg.slackH (c : Cfg) : Int := windowSlack c.inH.toNat c.padH.toNat c.dilH.toNat c.kernelH.toNat

/-- The slack of the width axis (R136 check 8b). -/
def Cfg.slackW (c : Cfg) : Int := windowSlack c.inW.toNat c.padW.toNat c.dilW.toNat c.kernelW.toNat

/-- `OUT_H` (R41): 0 in linear mode. -/
def Cfg.outHeight (c : Cfg) : Nat :=
  if c.spatial then outSize c.inH.toNat c.padH.toNat c.dilH.toNat c.kernelH.toNat c.strideH.toNat else 0

/-- `OUT_W` (R41): 0 in linear mode. -/
def Cfg.outWidth (c : Cfg) : Nat :=
  if c.spatial then outSize c.inW.toNat c.padW.toNat c.dilW.toNat c.kernelW.toNat c.strideW.toNat else 0

/-- The nine derived quantities (R41). -/
def Cfg.geometry (c : Cfg) : Geometry where
  bits := c.codeBits
  numSlices := c.slices
  count := c.codeCount
  outH := c.outHeight
  outW := c.outWidth
  inExtent :=
    if c.spatial then c.batch.toNat * c.inWidth.toNat * c.inH.toNat * c.inW.toNat
    else c.batch.toNat * c.inWidth.toNat
  outExtent :=
    if c.spatial then c.batch.toNat * c.numOut.toNat * c.outHeight * c.outWidth
    else c.batch.toNat * c.numOut.toNat
  reqWords := ceilDiv (c.codeCount * c.codeBits) c.wbits.toNat
  lutExtent :=
    if c.spatial then c.k.toNat * c.inH.toNat * c.inW.toNat
    else c.batch.toNat * c.k.toNat

/-- The derived registers that hold a geometry (R41: every value fits in 32 bits once R136 has passed). -/
def Geometry.registers (g : Geometry) : Derived where
  bits := BitVec.ofNat 32 g.bits
  numSlices := BitVec.ofNat 32 g.numSlices
  count := BitVec.ofNat 32 g.count
  outH := BitVec.ofNat 32 g.outH
  outW := BitVec.ofNat 32 g.outW
  inExtent := BitVec.ofNat 32 g.inExtent
  outExtent := BitVec.ofNat 32 g.outExtent
  reqWords := BitVec.ofNat 32 g.reqWords
  lutExtent := BitVec.ofNat 32 g.lutExtent

/-- R136 checks 1 to 8, on the registers both modes use. -/
def widthChecks (p : Params α) (c : Cfg) : List Check :=
  [ ⟨!(c.wbits == 8 || c.wbits == 16 || c.wbits == 32), .badW, c.wbits.toNat⟩,
    ⟨!isPow2 c.k.toNat, .kNotPow2, c.k.toNat⟩,
    ⟨c.k == 1, .badParam, 10⟩,
    ⟨decide (c.wbits.toNat < c.codeBits), .badW, c.wbits.toNat⟩,
    ⟨decide (p.maxBits < c.codeBits), .capacity, 8⟩,
    ⟨c.m == 0, .badParam, 11⟩,
    ⟨c.numOut == 0, .badParam, 13⟩,
    ⟨c.batch == 0, .badParam, 17⟩,
    ⟨c.inWidth == 0, .badParam, 18⟩,
    ⟨c.inWidth != c.totalWidth, .widthMismatch, c.inWidth.toNat⟩,
    ⟨c.inWidth.toNat % c.m.toNat != 0, .slice, c.inWidth.toNat⟩ ]

/-- R136 checks 8a and 8b, in spatial mode only. -/
def windowChecks (c : Cfg) : List Check :=
  [ ⟨c.inH == 0, .badParam, 19⟩,
    ⟨c.inW == 0, .badParam, 20⟩,
    ⟨c.kernelH == 0, .badParam, 21⟩,
    ⟨c.kernelW == 0, .badParam, 22⟩,
    ⟨c.strideH == 0, .badParam, 25⟩,
    ⟨c.strideW == 0, .badParam, 26⟩,
    ⟨c.dilH == 0, .badParam, 27⟩,
    ⟨c.dilW == 0, .badParam, 28⟩,
    ⟨decide (c.slackH < 0), .geom, 0⟩,
    ⟨decide (c.slackW < 0), .geom, 1⟩ ]

/-- R136 check 9: the declared lengths. -/
def lengthChecks (c : Cfg) : List Check :=
  [ ⟨c.cbLen.toNat != c.totalWidth.toNat * c.k.toNat, .cbLen, c.totalWidth.toNat * c.k.toNat⟩,
    ⟨c.biasLen != c.numOut, .biasLen, c.numOut.toNat⟩,
    ⟨decide (c.idxLen.toNat < c.geometry.reqWords), .idxShort, c.geometry.reqWords⟩,
    ⟨decide (c.geometry.reqWords < c.idxLen.toNat), .idxLong, c.geometry.reqWords⟩ ]

/-- R136 check 10: the capacities. -/
def capacityChecks (p : Params α) (c : Cfg) : List Check :=
  [ ⟨decide (p.capacity .cbmem < c.cbLen.toNat), .capacity, 1⟩,
    ⟨decide (p.capacity .biasmem < c.biasLen.toNat), .capacity, 2⟩,
    ⟨decide (p.capacity .idxmem < c.idxLen.toNat), .capacity, 3⟩,
    ⟨decide (p.capacity .inmem < c.geometry.inExtent), .capacity, 4⟩,
    ⟨decide (p.capacity .outmem < c.geometry.outExtent), .capacity, 5⟩,
    ⟨decide (p.capacity .decmem < c.geometry.count), .capacity, 6⟩,
    ⟨decide (p.capacity .lutmem < c.geometry.lutExtent), .capacity, 7⟩,
    ⟨decide (Config.fieldLimit < c.geometry.numSlices), .capacity, 9⟩,
    ⟨decide (Config.fieldLimit < c.batch.toNat), .capacity, 10⟩ ]

/-- The checks of R136, in its order. They read only the configuration registers and the
parameters. -/
def reshapeChecks (p : Params α) (c : Cfg) : List Check :=
  widthChecks p c ++ (if c.spatial then windowChecks c else []) ++ lengthChecks c ++ capacityChecks p c

end Sys2Proof.Machine
end

