-- ==== Sys2Proof/Machine/Decoder.lean ====
section
/-! DEFINITION. The bit-field code decoder (spec/41_decoder_reshape.md R130, R132, R134) on the packed-index layout
(spec/20_memory.md R72), and the packer its round trip speaks of (R135; the packer is no part of the hardware). -/

namespace Sys2Proof.Machine

variable {α : Type} {p : Params α}

/-- One code of R130: code `i` of a buffer of `W`-bit words, `b` bits a code, or the index of the word that is not
there. The left shift is not truncated; `shift` is an integer. -/
def decodeCode (words : List Nat) (b W i : Nat) : Except Nat Nat :=
  let s := i * b
  let wi := s / W
  let off := s % W
  let shift : Int := ((W : Int) - b) - off
  match words[wi]? with
  | none => .error wi
  | some word =>
    if 0 ≤ shift then .ok ((word >>> shift.toNat) &&& (2 ^ b - 1))
    else
      match words[wi + 1]? with
      | none => .error (wi + 1)
      | some nextWord =>
        .ok (((word <<< (-shift).toNat) ||| (nextWord >>> ((W : Int) + shift).toNat)) &&& (2 ^ b - 1))

/-- Codes `i` to `i + n - 1`, or the first failure (R130: the loop ends at the first word that is not there). -/
def decodeFrom (words : List Nat) (b W : Nat) : Nat → Nat → Except Nat (List Nat)
  | _, 0 => .ok []
  | i, n + 1 =>
    match decodeCode words b W i with
    | .error q => .error q
    | .ok code =>
      match decodeFrom words b W (i + 1) n with
      | .error q => .error q
      | .ok codes => .ok (code :: codes)

/-- `decode(words, n, b, W)` (R130): the codes, or `Bounds(q)` as `.error q`. -/
def decodeCodes (words : List Nat) (n b W : Nat) : Except Nat (List Nat) := decodeFrom words b W 0 n

/-- Bit `t` of the bit string of R72 that holds these `b`-bit codes most significant bit first, zeros after them. -/
def packedBit (codes : List Nat) (b t : Nat) : Bool := (codes.getD (t / b) 0).testBit (b - 1 - t % b)

/-- The number whose `W`-bit binary form, most significant bit first, is bits `q*W` to `q*W + W - 1`. -/
def packedWord (codes : List Nat) (b W q : Nat) : Nat :=
  (List.range W).foldl (fun acc t => 2 * acc + (packedBit codes b (q * W + t)).toNat) 0

/-- `pack(codes, b, W)` (R135). -/
def packCodes (codes : List Nat) (b W : Nat) : List Nat :=
  (List.range (ceilDiv (codes.length * b) W)).map (packedWord codes b W)

/-- The words that `RESHAPE` decodes (R137): the low `W` bits of `IDX[0 .. IDX_LEN-1]`. -/
def State.Of.packedWords (s : State.Of p) : List Nat :=
  (List.range s.cfg.idxLen.toNat).map fun q => (p.toWord (s.elem .idxmem q)).toNat % 2 ^ s.cfg.wbits.toNat

/-- What decoding the packed buffer gives in the current configuration (R137). -/
def State.Of.decoded (s : State.Of p) : Except Nat (List Nat) :=
  decodeCodes s.packedWords s.cfg.codeCount s.cfg.codeBits s.cfg.wbits.toNat

end Sys2Proof.Machine
end

