-- ==== Sys2Proof/Machine/Reshape.lean ====
section
/-! DEFINITION. `RESHAPE` (spec/41_decoder_reshape.md R136, R137). -/

namespace Sys2Proof.Machine

variable {α : Type} {p : Params α}

/-- The last check of R137: the decode failed at word `q`. It cannot fail once R136 has passed (R133). -/
def decodeCheck (s : State.Of p) : Check :=
  match s.decoded with
  | .ok _ => ⟨false, .decodeBounds, 0⟩
  | .error q => ⟨true, .decodeBounds, q⟩

/-- What `RESHAPE` checks (R98 step 4, R136, R137): the phase; then, unless the block is `READY` already, R136 and
the decode. -/
def reshapeCommandChecks (s : State.Of p) : List Check :=
  phaseCheck (s.phase == .configured || s.phase == .ready) ::
    (if s.phase = .ready then [] else reshapeChecks p s.cfg ++ [decodeCheck s])

/-- The decoded indices, when decoding does not fail (R137: the check has passed). -/
def State.Of.decodedIndices (s : State.Of p) : List α :=
  match s.decoded with
  | .ok codes => codes.map fun x => p.ofWord (BitVec.ofNat 32 x)
  | .error _ => []

/-- R137 after the checks: `DECMEM` is rebuilt, the phase passes through `RESHAPED` (R24), the derived registers are
written, the table is dropped, and the block is `READY`. -/
def rebuild (s : State.Of p) : State.Of p :=
  let s1 : State.Of p := { s with decmem := Memory.ofList 0 s.decodedIndices }
  let s2 : State.Of p := { s1 with phase := .reshaped }
  let s3 : State.Of p := { s2 with derived := s2.cfg.geometry.registers }
  let s4 := s3.dropTable
  { s4 with phase := .ready }

/-- The effect of `RESHAPE` (R137): nothing in `READY`, not even on the table's tag. -/
def reshapeEffect (s : State.Of p) : State.Of p := if s.phase = .ready then s else rebuild s

/-- `RESHAPE` (R137). -/
def execReshape (s : State.Of p) : Result p :=
  runCommand (encode .reshape) (reshapeCommandChecks s) reshapeEffect s

end Sys2Proof.Machine
end

