-- ==== Sys2Proof/Machine/Commands.lean ====
section
/-! DEFINITION. PQCM with any parameters (spec/00_scope.md R9, R11, spec/10_state.md R47): the commands and one step of
the block that a parameter record describes. `exec` and `step` are these at the reference record (`exec_eq_execOn`,
`step_eq_stepOn` in Sys2Proof/Laws/Step.lean). -/

namespace Sys2Proof.Machine

variable {α : Type} {p : Params α}

/-- The commands of spec/30_encoding.md R93 on the block with the parameters `p`. -/
def execOn (i : Instr) (s : State.Of p) : Result p :=
  match i with
  | .nop => execNop s
  | .reset => execReset s
  | .bind slot => execBind slot s
  | .reshape => execReshape s
  | .mulv r j => execMulv r j s
  | .mulb j => execMulb j s
  | .muls n j => execMuls n j s
  | .zero => execZero s
  | .gacv r j => execGacv r j s
  | .gacb j => execGacb j s
  | .gacs n j => execGacs n j s
  | .bias => execBias s
  | .fwdl => execFwdl s
  | .fwds => execFwds s

/-- One step of the block with the parameters `p`. -/
def stepOn (s : State.Of p) : Result p := serveNext execOn s

/-- The host program, one request after the other, from a given state (R47: the program is a parameter;
spec/70_reset_and_hazards.md R235: one global order). -/
def runProgram : List (Request α) → State.Of p → Result p
  | [], s => .next s
  | q :: rest, s =>
    match serve execOn q s with
    | .next t => runProgram rest t
    | .fault e => .fault e
    | .refused e => .refused e

end Sys2Proof.Machine
end

