-- ==== Sys2Proof/Machine/Dispatch.lean ====
section
/-! DEFINITION. One arm per command of spec/30_encoding.md R93, each a call of the command's own meaning. -/

namespace Sys2Proof.Machine

def exec (i : Instr) (s : State) : Host.Outcome State Fault Refusal :=
  match i with
  | .nop => Sys2Proof.Machine.execNop s
  | .reset => Sys2Proof.Machine.execReset s
  | .bind slot => Sys2Proof.Machine.execBind slot s
  | .reshape => Sys2Proof.Machine.execReshape s
  | .mulv r j => Sys2Proof.Machine.execMulv r j s
  | .mulb j => Sys2Proof.Machine.execMulb j s
  | .muls n j => Sys2Proof.Machine.execMuls n j s
  | .zero => Sys2Proof.Machine.execZero s
  | .gacv r j => Sys2Proof.Machine.execGacv r j s
  | .gacb j => Sys2Proof.Machine.execGacb j s
  | .gacs n j => Sys2Proof.Machine.execGacs n j s
  | .bias => Sys2Proof.Machine.execBias s
  | .fwdl => Sys2Proof.Machine.execFwdl s
  | .fwds => Sys2Proof.Machine.execFwds s

end Sys2Proof.Machine
end

