-- ==== Sys2Proof/Machine/Step.lean ====
section
/-! DEFINITION. One step of the machine: one host access and the command it starts (spec/20_memory.md R60,
spec/70_reset_and_hazards.md R245). It is the step of the block with the reference parameters. -/

namespace Sys2Proof.Machine

/-- One step. -/
def step (s : State) : Host.Outcome State Fault Refusal := serveNext exec s

/-- The host's next access writes the command word whose bits are `w` (`nbits` of them, the rest 0) to `CMD`. The
block has no program counter (spec/10_state.md R22): a command comes from this write alone. -/
def State.withFetchWord (s : State) (nbits w : Nat) : State := s.submit (BitVec.ofNat 32 (w % 2 ^ nbits))

end Sys2Proof.Machine
end

