-- ==== Sys2Proof/Safety.lean ====
section
/-! DEFINITION. What a well-kept state of PQCM is, and the terms the statements use: the invariants the spec states
(spec/10_state.md R25 to R27, R42, R43, R45, spec/20_memory.md R62), the state after a fault written out
(spec/60_exceptions.md R212), and a sequence of commands (spec/44_forward.md R192, R193). -/

namespace Sys2Proof.Machine

variable {α : Type} {p : Params α}

/-! ### Invariants -/

/-- R45 items 1 to 4 and 6, R25, R26 and R27: how the phase, the slots, the fault record and the tag fit together. -/
structure State.Of.Lifecycle (s : State.Of p) : Prop where
  /-- R45.1 -/
  not_reshaped : s.phase ≠ .reshaped
  /-- R45.2 -/
  uninit_iff : s.phase = .uninit ↔ s.phase ≠ .fault ∧ s.allBound = false
  /-- R45.3 -/
  err_iff : s.err ≠ 0 ↔ s.phase = .fault
  /-- R45.3 -/
  record_clear : s.phase ≠ .fault → s.errInfo = 0 ∧ s.errCmd = 0
  /-- R45.4 -/
  table_phase : s.lut.valid = true → s.phase = .ready ∨ s.phase = .fault
  /-- R45.6 -/
  not_ready_clear :
    s.phase = .uninit ∨ s.phase = .configured → s.derived = Derived.zero ∧ s.lut.valid = false
  /-- R26: when `LUT_VALID = 0` the other tag fields are 0 -/
  tag_clear : s.lut.valid = false → s.lut = LutTag.empty

/-- R45 item 5 and R42: what `READY` promises. -/
structure State.Of.Ready (s : State.Of p) : Prop where
  /-- every check of R136 holds -/
  checks : firstFailing (reshapeChecks p s.cfg) = none
  /-- the derived registers hold the values of R41 -/
  derived : s.derived = s.cfg.geometry.registers
  /-- `DECMEM` holds the decoded packed buffer (R42) -/
  decoded : ∃ codes, s.decoded = .ok codes ∧
    s.decmem = Memory.ofList 0 (codes.map fun code => p.ofWord (BitVec.ofNat 32 code))

/-- The table that the tag describes, computed from what `CBMEM` and `INMEM` hold now (R26, R43). -/
def State.Of.taggedTable (s : State.Of p) : List α :=
  match s.lut.kind with
  | .none => []
  | .v => s.tableRow s.lut.r.toNat s.lut.j.toNat
  | .b => s.tableRows s.lut.j.toNat
  | .s => s.tablePlanes s.lut.r.toNat s.lut.j.toNat

/-- R43 and R26: a valid table is the one its tag describes, and the tag names a slice, and a row or image, of the
geometry; it was built by a command of the current mode. -/
structure State.Of.Table (s : State.Of p) : Prop where
  fresh : s.lutmem = Memory.ofList 0 s.taggedTable
  kind : s.lut.kind ≠ .none ∧ (s.lut.kind = .s ↔ s.cfg.spatial = true)
  slice : s.lut.j.toNat < s.derived.numSlices.toNat
  row : s.lut.r.toNat < s.cfg.batch.toNat
  rowOfB : s.lut.kind = .b → s.lut.r = 0

/-- Every memory is in its canonical form. -/
def State.Of.Canonical (s : State.Of p) : Prop := ∀ sp, (s.mem sp).wf

/-- No memory lists an element at or above its capacity (R62: no command can generate such an index). -/
def State.Of.InRange (s : State.Of p) : Prop := ∀ sp, ∀ c ∈ s.mem sp, c.1 < p.capacity sp

/-- The invariant of PQCM whenever a host access is served (R45 and the rules above). -/
structure State.Of.Inv (s : State.Of p) : Prop where
  lifecycle : s.Lifecycle
  ready : s.phase = .ready → s.Ready
  table : s.lut.valid = true → s.Table
  canonical : s.Canonical
  inRange : s.InRange

/-! ### Words of the statements -/

/-- The state after a fault with this code and info during command word `c` (R212): four fields change. -/
def State.Of.faulted (s : State.Of p) (code : BitVec 8) (info : Nat) (c : Word) : State.Of p :=
  { s with err := code, errInfo := BitVec.ofNat 32 info, errCmd := c, phase := .fault }

/-- The state after the host's next access, left in `rest`, is served with this answer and nothing else happens. -/
def State.Of.served (s : State.Of p) (rest : List (Request α)) (r : Reply α) : State.Of p :=
  { s with pending := rest, reply := r }

/-- A sequence of commands, one after the other, with no other host access in between (R192, R193). -/
def execAll : List Instr → State → Result reference
  | [], s => .next s
  | i :: is, s =>
    match exec i s with
    | .next t => execAll is t
    | .fault e => .fault e
    | .refused e => .refused e

/-- The request is a write of the command word `c` to `CMD`, as an access or through the bus (spec/10_state.md
R31). -/
abbrev Request.commands (p : Params α) (c : Word) (q : Request α) : Prop := q.translate p = some (.regWrite 1 c)

/-- Bit `t` of the bit string of `W`-bit words, most significant bit of each word first (R72). -/
def streamBit (words : List Nat) (W t : Nat) : Bool := (words.getD (t / W) 0).testBit (W - 1 - t % W)

end Sys2Proof.Machine
end

