-- ==== Sys2Proof/Certificates/Slice0/Obligations.lean ====
section
/-! DEFINITION. The statements about PQCM, from the numbered rules of spec/. "Ready" is `PHASE = READY`; a fault is a
next state, written `s.faulted code info word` (R212). Indices are written as the rules write them. The model's
choices that appear in many statements: `State`, `exec` and `step` are about the block with the `reference` parameters:
real arithmetic is the instance `binary32` (`radd`, `rmul`, `rzero`; log 4), capacities are the suggested defaults
(log 3), and the host's accesses stand in `pending` (log 1). A statement about `State.Of p`, `execOn` and `stepOn` holds
of the block with any parameters `p` (R9, R47). -/

open Sys2Proof Sys2Proof.Machine

/-! ### Reset, registers, host accesses -/

/-- R230, R46: after power-on reset every register the host can read is 0, no slot is bound, and the block executes
nothing by itself. -/
def Obligations.ResetLeavesEveryRegisterZero : Prop :=
  State.reset.phase = .uninit ∧ (∀ sl, State.reset.bound sl = false) ∧ State.reset.lut.valid = false ∧
  (∀ n, n < 64 → State.reset.readReg n = 0#32) ∧ step State.reset = .next State.reset

/-- R23, R24, R26: where each flag stands in `STATUS` and each tag field in `LUTTAG`, that the reserved bits read 0,
and the codes of `PHASE` and `LUT_KIND`. -/
def Obligations.StatusWordLayout : Prop :=
  ∀ s : State, let w := s.readReg 0
    let tag := s.readReg 4
    (w.extractLsb' 0 3 = match s.phase with
      | .uninit => 0#3
      | .configured => 1#3
      | .reshaped => 2#3
      | .ready => 3#3
      | .fault => 4#3) ∧
    w.getLsbD 3 = false ∧ w.getLsbD 4 = s.boundCb ∧
    w.getLsbD 5 = s.boundBias ∧ w.getLsbD 6 = s.boundIdx ∧ w.getLsbD 7 = s.lut.valid ∧
    w.extractLsb' 8 8 = s.err ∧
    (w.extractLsb' 16 2 = match s.lut.kind with
      | .none => 0#2
      | .v => 1#2
      | .b => 2#2
      | .s => 3#2) ∧
    w.extractLsb' 18 14 = 0#14 ∧
    tag.extractLsb' 0 12 = s.lut.j ∧ tag.extractLsb' 12 12 = s.lut.r ∧ tag.extractLsb' 24 8 = 0#8

/-- R28, R29, R32: which configuration register each number names; a configuration register reads back what the host
wrote (of `MODE` bits 1:0 only), a write of it leaves every other register number of the file as it was, and no other
number is a configuration register. -/
def Obligations.ConfigRegisterReadsBack : Prop :=
  (∀ (c : Cfg) (n : Nat) (v : Word),
    (8 ≤ n ∧ n ≤ 28 → ∃ d, c.writeReg n v = some d ∧
      d.readReg n = some (if n = 8 then v &&& 3#32 else v) ∧ ∀ m, m ≠ n → d.readReg m = c.readReg m) ∧
    (n < 8 ∨ 28 < n → c.writeReg n v = none ∧ c.readReg n = none)) ∧
  ∀ c : Cfg,
    c.readReg 8 = some (c.mode.setWidth 32) ∧ c.readReg 9 = some c.wbits ∧ c.readReg 10 = some c.k ∧
    c.readReg 11 = some c.m ∧ c.readReg 12 = some c.totalWidth ∧ c.readReg 13 = some c.numOut ∧
    c.readReg 14 = some c.cbLen ∧ c.readReg 15 = some c.biasLen ∧ c.readReg 16 = some c.idxLen ∧
    c.readReg 17 = some c.batch ∧ c.readReg 18 = some c.inWidth ∧ c.readReg 19 = some c.inH ∧
    c.readReg 20 = some c.inW ∧ c.readReg 21 = some c.kernelH ∧ c.readReg 22 = some c.kernelW ∧
    c.readReg 23 = some c.padH ∧ c.readReg 24 = some c.padW ∧ c.readReg 25 = some c.strideH ∧
    c.readReg 26 = some c.strideW ∧ c.readReg 27 = some c.dilH ∧ c.readReg 28 = some c.dilW

/-- R28, R29: a host read of a register returns its value and changes nothing; which register each number names
(0 `STATUS` and 4 `LUTTAG` are in `StatusWordLayout`); `CMD` and unmapped numbers read 0. -/
def Obligations.RegisterReadHasNoSideEffect : Prop :=
  (∀ (s : State) (n : Nat) (rest : List (Request Word)), s.pending = .access (.regRead n) :: rest → n < 64 →
    step s = .next (s.served rest (.value (s.readReg n))) ∧
    (n = 1 ∨ (5 ≤ n ∧ n ≤ 7) ∨ (29 ≤ n ∧ n ≤ 31) ∨ 41 ≤ n → s.readReg n = 0#32)) ∧
  ∀ s : State,
    s.readReg 2 = s.errInfo ∧ s.readReg 3 = s.errCmd ∧ s.readReg 8 = s.cfg.mode.setWidth 32 ∧
    s.readReg 9 = s.cfg.wbits ∧ s.readReg 10 = s.cfg.k ∧ s.readReg 11 = s.cfg.m ∧ s.readReg 12 = s.cfg.totalWidth ∧
    s.readReg 13 = s.cfg.numOut ∧ s.readReg 14 = s.cfg.cbLen ∧ s.readReg 15 = s.cfg.biasLen ∧
    s.readReg 16 = s.cfg.idxLen ∧ s.readReg 17 = s.cfg.batch ∧ s.readReg 18 = s.cfg.inWidth ∧
    s.readReg 19 = s.cfg.inH ∧ s.readReg 20 = s.cfg.inW ∧ s.readReg 21 = s.cfg.kernelH ∧
    s.readReg 22 = s.cfg.kernelW ∧ s.readReg 23 = s.cfg.padH ∧ s.readReg 24 = s.cfg.padW ∧
    s.readReg 25 = s.cfg.strideH ∧ s.readReg 26 = s.cfg.strideW ∧ s.readReg 27 = s.cfg.dilH ∧
    s.readReg 28 = s.cfg.dilW ∧ s.readReg 32 = s.derived.bits ∧ s.readReg 33 = s.derived.numSlices ∧
    s.readReg 34 = s.derived.count ∧ s.readReg 35 = s.derived.outH ∧ s.readReg 36 = s.derived.outW ∧
    s.readReg 37 = s.derived.inExtent ∧ s.readReg 38 = s.derived.outExtent ∧ s.readReg 39 = s.derived.reqWords ∧
    s.readReg 40 = s.derived.lutExtent

/-- R29: a host write to a read-only register or to an unmapped number below 64 is ignored. -/
def Obligations.ReadOnlyRegisterWriteIgnored : Prop :=
  ∀ (s : State) (n : Nat) (v : Word) (rest : List (Request Word)),
    s.pending = .access (.regWrite n v) :: rest → n < 64 → n ≠ 1 → (n < 8 ∨ 28 < n) →
    step s = .next (s.served rest .accepted)

/-- R30: a host write to a configuration register is ignored in `FAULT`; otherwise it stores the register (of `MODE`
bits 1:0), drops the table, and takes a block that was `READY` to `CONFIGURED` with derived registers 0; bound flags
and the five host memories are not touched. -/
def Obligations.ConfigWriteLeavesReady : Prop :=
  ∀ (s : State) (n : Nat) (v : Word) (rest : List (Request Word)),
    s.pending = .access (.regWrite n v) :: rest → 8 ≤ n → n ≤ 28 →
    (s.phase = .fault → step s = .next (s.served rest .accepted)) ∧
    (s.phase ≠ .fault → ∃ t c, s.cfg.writeReg n v = some c ∧
      c.readReg n = some (if n = 8 then v &&& 3#32 else v) ∧ step s = .next t ∧
      t = { s with
        cfg := c, lut := LutTag.empty,
        phase := if s.phase = .ready then .configured else s.phase,
        derived := if s.phase = .ready then Derived.zero else s.derived,
        decmem := t.decmem, lutmem := t.lutmem, pending := rest, reply := .accepted })

/-- R83, R213: in `FAULT` whatever the host asks for, other than the write of the `RESET` word to `CMD`, leaves every
register and every memory as it was; and every command but `RESET` is ignored. -/
def Obligations.FaultFreezesBlock : Prop :=
  (∀ (s : State) (q : Request Word) (rest : List (Request Word)), s.phase = .fault → s.pending = q :: rest →
    ¬ q.commands reference 0x01000000#32 → ∃ r, step s = .next (s.served rest r)) ∧
  (∀ (s : State) (i : Instr), s.phase = .fault → i ≠ .reset → exec i s = .next s)

/-- R62, R66, R69, R28: an access to a register number from 64, to an element at or above the capacity, or a write to
either cache, is refused: nothing changes, in any phase (in `FAULT` this is the model's choice, log 10). -/
def Obligations.RefusedAccessChangesNothing : Prop :=
  ∀ (s : State) (rest : List (Request Word)) (a : HostAccess Word), s.pending = .access a :: rest →
    ((∃ n, a = .regRead n ∧ 64 ≤ n) ∨ (∃ n v, a = .regWrite n v ∧ 64 ≤ n) ∨
     (∃ sp i, a = .memRead sp i ∧ Config.capacity sp ≤ i) ∨
     (∃ sp i v, a = .memWrite sp i v ∧ (Config.capacity sp ≤ i ∨ sp = .decmem ∨ sp = .lutmem))) →
    step s = .next (s.served rest .refused)

/-- R67: a host read of one of the five host memories returns the element in every phase; `DECMEM` can be read in
`READY` below `COUNT` only, `LUTMEM` in `READY` with a valid table below `LUT_LEN` only. -/
def Obligations.MemoryReadWindows : Prop :=
  ∀ (s : State) (sp : Space) (i : Nat) (rest : List (Request Word)), s.pending = .access (.memRead sp i) :: rest →
    i < Config.capacity sp →
    (sp ≠ .decmem → sp ≠ .lutmem → step s = .next (s.served rest (.value (s.elem sp i)))) ∧
    (sp = .decmem → step s = .next (s.served rest
      (if s.phase = .ready ∧ i < s.derived.count.toNat then .value (s.elem sp i) else .refused))) ∧
    (sp = .lutmem → step s = .next (s.served rest
      (if s.phase = .ready ∧ s.lut.valid = true ∧
          i < (match s.lut.kind with
            | .none => 0
            | .v => s.cfg.k.toNat
            | .b => s.cfg.batch.toNat * s.cfg.k.toNat
            | .s => s.cfg.k.toNat * s.cfg.inH.toNat * s.cfg.inW.toNat)
        then .value (s.elem sp i) else .refused)))

/-- R68: a host write of a parameter element changes nothing in `FAULT`; otherwise it stores the element; if its slot
was bound the slot is unbound, the phase is `UNINIT`, the tag and the derived registers are 0; if not, nothing else
changes. -/
def Obligations.ParameterWriteUnbinds : Prop :=
  ∀ (s : State) (sp : Space) (sl : Slot) (i : Nat) (v : Word) (rest : List (Request Word)),
    s.pending = .access (.memWrite sp i v) :: rest → paramSlot sp = some sl → i < Config.capacity sp →
    (s.phase = .fault → step s = .next (s.served rest .accepted)) ∧
    (s.phase ≠ .fault → ∃ t, step s = .next t ∧ t.elem sp i = v ∧ (∀ e, e ≠ i → t.elem sp e = s.elem sp e) ∧
      (s.bound sl = false → t = (s.withMem sp (t.mem sp)).served rest .accepted) ∧
      (s.bound sl = true → t.bound sl = false ∧
        t = { (s.withMem sp (t.mem sp)) with
          boundCb := if sl = .codebook then false else s.boundCb,
          boundBias := if sl = .bias then false else s.boundBias,
          boundIdx := if sl = .packedIndex then false else s.boundIdx,
          phase := .uninit, lut := LutTag.empty, derived := Derived.zero,
          decmem := t.decmem, lutmem := t.lutmem, pending := rest, reply := .accepted }))

/-- R69: a host write of an input element outside `FAULT` stores it and drops the table, the phase kept; a write of an
output element stores it and changes nothing else; a write of either cache is refused in every phase. -/
def Obligations.InputAndOutputWrites : Prop :=
  ∀ (s : State) (i : Nat) (v : Word) (rest : List (Request Word)),
    (s.phase ≠ .fault → s.pending = .access (.memWrite .inmem i v) :: rest → i < Config.capacity .inmem →
      ∃ t, step s = .next t ∧
        t = { s with inmem := t.inmem, lut := LutTag.empty, lutmem := t.lutmem, pending := rest, reply := .accepted } ∧
        t.elem .inmem i = v ∧ ∀ e, e ≠ i → t.elem .inmem e = s.elem .inmem e) ∧
    (s.phase ≠ .fault → s.pending = .access (.memWrite .outmem i v) :: rest → i < Config.capacity .outmem →
      ∃ t, step s = .next t ∧ t = { s with outmem := t.outmem, pending := rest, reply := .accepted } ∧
        t.elem .outmem i = v ∧ ∀ e, e ≠ i → t.elem .outmem e = s.elem .outmem e) ∧
    (s.pending = .access (.memWrite .decmem i v) :: rest ∨ s.pending = .access (.memWrite .lutmem i v) :: rest →
      step s = .next (s.served rest .refused))

/-- R9, R64: the default `HOST_MAP`, which the reference record takes (log 9), is injective: two accesses that name one
place are at one offset and of one size. The reference record, and the record with the exact rationals (R11), meet
every constraint of R9. -/
def Obligations.HostMapInjective : Prop :=
  (∀ (a b m n : Nat) (place : Place), defaultHostMap a m = some place → defaultHostMap b n = some place →
    a = b ∧ m = n) ∧
  reference.Valid ∧ ∀ initial, (rationalParams initial).Valid

/-- R64, R62, under the default `HOST_MAP`, which the reference record takes (log 9): a bus access is the access to the
register, or to the element, that its offset names; one of another size, one that is not aligned, and one whose offset
names nothing are refused and change nothing. -/
def Obligations.BusAccessFollowsHostMap : Prop :=
  ∀ (s : State) (offset bytes : Nat) (v : Word) (rest : List (Request Word)),
    let next := fun (q : Request Word) => step { s with pending := q :: rest }
    let read := Request.bus (.read offset bytes)
    let write := Request.bus (.write offset bytes v)
    let refused := Host.Outcome.next (s.served rest .refused)
    (∀ n, n < 64 → bytes = 4 → offset = 4 * n →
      next read = next (.access (.regRead n)) ∧ next write = next (.access (.regWrite n v))) ∧
    (∀ window sp i, (window, sp) ∈ [(1, Space.cbmem), (2, .biasmem), (3, .idxmem), (4, .inmem), (5, .outmem),
        (6, .decmem), (7, .lutmem)] → bytes = 4 → 4 * i < 0x01000000 →
      offset = window * 0x01000000 + 4 * i →
      (i < Config.capacity sp →
        next read = next (.access (.memRead sp i)) ∧ next write = next (.access (.memWrite sp i v))) ∧
      (Config.capacity sp ≤ i → next read = refused ∧ next write = refused)) ∧
    (bytes ≠ 4 ∨ offset % 4 ≠ 0 ∨ (0x100 ≤ offset ∧ offset < 0x01000000) ∨
      0x08000000 ≤ offset → next read = refused ∧ next write = refused)

/-! ### Command words -/

/-- R90 to R93, R96: decoding the word of a well-formed command gives the command, whatever its operands. -/
def Obligations.DecodeEncodeRoundTrip : Prop :=
  ∀ i : Instr, i.wellFormed = true → decode (encode i) = .ok i

/-- R93, R94: a word that decodes is exactly the word of the command it decodes to, so no two words are one command
and no bit of a word is ignored. -/
def Obligations.DecodedWordIsItsEncoding : Prop :=
  ∀ (c : Word) (i : Instr), decode c = .ok i → i.wellFormed = true ∧ encode i = c

/-- R93: a word is the command of a row when `c & mask = match` (`BIND` with slot 3 apart, R94). -/
def Obligations.MaskAndMatchSelectCommand : Prop :=
  ∀ (c : Word) (i : Instr), c &&& maskBits i = matchBits i → c ≠ 0x02000003#32 →
    ∃ k, decode c = .ok k ∧ matchBits k = matchBits i ∧ maskBits k = maskBits i

/-- R93, R96: the word of `MNEM r, j` is `(OPC << 24) | (r << 12) | j`, with a field 0 that the command's format does not
have; the seven commands of format `Z` are one word each. -/
def Obligations.EncodingFormula : Prop :=
  ∀ (r j : BitVec 12) (s : BitVec 2),
    let w := fun (opc : Word) => opc <<< 24 ||| r.setWidth 32 <<< 12 ||| j.setWidth 32
    encode (.mulv r j) = w 0x10#32 ∧ encode (.muls r j) = w 0x12#32 ∧ encode (.gacv r j) = w 0x21#32 ∧
    encode (.gacs r j) = w 0x23#32 ∧ encode (.mulb j) = 0x11000000#32 ||| j.setWidth 32 ∧
    encode (.gacb j) = 0x22000000#32 ||| j.setWidth 32 ∧ encode (.bind s) = 0x02000000#32 ||| s.setWidth 32 ∧
    encode .nop = 0x00000000#32 ∧ encode .reset = 0x01000000#32 ∧ encode .reshape = 0x03000000#32 ∧
    encode .zero = 0x20000000#32 ∧ encode .bias = 0x24000000#32 ∧ encode .fwdl = 0x30000000#32 ∧
    encode .fwds = 0x31000000#32

/-- R94: which words are illegal, and that executing one outside `FAULT` raises `ERR_ILLEGAL_CMD` with info 0 for a
reserved opcode, 1 for a non-zero must-be-zero field, 2 for `BIND` with slot 3, whatever the phase and mode. -/
def Obligations.IllegalWordsFault : Prop :=
  ∀ (s : State) (c : Word), s.phase ≠ .fault →
    (opcField c ∉ definedOpcodes → execWord exec c s = .next (s.faulted 0x21 0 c)) ∧
    (opcField c ∈ definedOpcodes → (∀ i, i.wellFormed = true → encode i ≠ c) → c ≠ 0x02000003#32 →
      execWord exec c s = .next (s.faulted 0x21 1 c)) ∧
    (c = 0x02000003#32 → execWord exec c s = .next (s.faulted 0x21 2 c))

/-- R93: words written out from the opcode map decode to the commands they stand for. -/
def Obligations.WrittenOutWordsDecode : Prop :=
  decode 0x00000000#32 = .ok .nop ∧ decode 0x01000000#32 = .ok .reset ∧ decode 0x02000002#32 = .ok (.bind 2) ∧
  decode 0x03000000#32 = .ok .reshape ∧ decode 0x10001002#32 = .ok (.mulv 1 2) ∧
  decode 0x11000003#32 = .ok (.mulb 3) ∧ decode 0x23ABC123#32 = .ok (.gacs 0xABC 0x123) ∧
  decode 0x20000000#32 = .ok .zero ∧ decode 0x24000000#32 = .ok .bias ∧ decode 0x30000000#32 = .ok .fwdl ∧
  decode 0x31000000#32 = .ok .fwds

/-- R31, R66, R98: when the host's next request writes any word to `CMD`, legal or not, the step is the execution of
that word on the state in which that request has been taken from the host's list and accepted; where the word decodes to
`i`, that is `exec i`; and so it is, with `execOn`, on the block with any parameters (R9, R47). A write to `CMD` is an
access to register 1 (R28) or, under the default `HOST_MAP` of the reference record (R64; the model's choice, log 9), a
bus write of 4 bytes at offset 4. -/
def Obligations.StepRunsDecodedCommand : Prop :=
  (∀ c, Request.commands reference c (.access (.regWrite 1 c)) ∧ Request.commands reference c (.bus (.write 4 4 c))) ∧
  (∀ (s : State) (q : Request Word) (c : Word) (rest : List (Request Word)), s.pending = q :: rest →
    q.commands reference c →
    step s = execWord exec c (s.served rest .accepted) ∧
    ∀ i, decode c = .ok i → step s = exec i (s.served rest .accepted)) ∧
  ∀ (α : Type) (p : Params α) (s : State.Of p) (q : Request α) (c : Word) (rest : List (Request α)),
    s.pending = q :: rest → q.commands p c →
    stepOn s = execWord execOn c (s.served rest .accepted) ∧
    ∀ i, decode c = .ok i → stepOn s = execOn i (s.served rest .accepted)

/-! ### Lifecycle commands -/

/-- R110: `NOP` changes nothing, in any phase. -/
def Obligations.NopChangesNothing : Prop :=
  ∀ s : State, exec .nop s = .next s

/-- R111: `RESET` puts every register to 0 in any phase, `FAULT` included, and touches none of the five host memories
(what the two caches hold is unspecified afterwards, R46). Another word of its opcode is illegal outside `FAULT` and
ignored in it. -/
def Obligations.ResetClearsRegistersKeepsMemories : Prop :=
  ∀ s : State,
    (∃ t, exec .reset s = .next t ∧
      t = { State.reset with
        cbmem := s.cbmem, biasmem := s.biasmem, idxmem := s.idxmem, inmem := s.inmem, outmem := s.outmem,
        decmem := t.decmem, lutmem := t.lutmem, pending := s.pending, reply := s.reply } ∧
      ∀ n, n < 64 → t.readReg n = 0#32) ∧
    ∀ c, opcField c = 0x01 → c ≠ 0x01000000#32 →
      execWord exec c s = if s.phase = .fault then .next s else .next (s.faulted 0x21 1 c)

/-- R112: `BIND s` outside `FAULT`: slot 3 and other non-zero must-be-zero bits are illegal; a declared length of 0 or
above the capacity faults with info `s + 1`; otherwise the slot's flag is set, and the
binding that completes the set takes `UNINIT` to `CONFIGURED`. -/
def Obligations.BindSetsSlotOrFaults : Prop :=
  ∀ s : State, s.phase ≠ .fault →
    exec (.bind 3) s = .next (s.faulted 0x21 2 0x02000003#32) ∧
    (∀ c, opcField c = 0x02 → rField c ≠ 0 ∨ slotPadField c ≠ 0 → execWord exec c s = .next (s.faulted 0x21 1 c)) ∧
    (s.cfg.cbLen.toNat = 0 ∨ Config.capacity .cbmem < s.cfg.cbLen.toNat →
      exec (.bind 0) s = .next (s.faulted 0x15 1 0x02000000#32)) ∧
    (s.cfg.biasLen.toNat = 0 ∨ Config.capacity .biasmem < s.cfg.biasLen.toNat →
      exec (.bind 1) s = .next (s.faulted 0x15 2 0x02000001#32)) ∧
    (s.cfg.idxLen.toNat = 0 ∨ Config.capacity .idxmem < s.cfg.idxLen.toNat →
      exec (.bind 2) s = .next (s.faulted 0x15 3 0x02000002#32)) ∧
    (0 < s.cfg.cbLen.toNat → s.cfg.cbLen.toNat ≤ Config.capacity .cbmem →
      exec (.bind 0) s = .next { s with
        boundCb := true,
        phase := if s.phase = .uninit ∧ s.boundBias = true ∧ s.boundIdx = true then .configured else s.phase }) ∧
    (0 < s.cfg.biasLen.toNat → s.cfg.biasLen.toNat ≤ Config.capacity .biasmem →
      exec (.bind 1) s = .next { s with
        boundBias := true,
        phase := if s.phase = .uninit ∧ s.boundCb = true ∧ s.boundIdx = true then .configured else s.phase }) ∧
    (0 < s.cfg.idxLen.toNat → s.cfg.idxLen.toNat ≤ Config.capacity .idxmem →
      exec (.bind 2) s = .next { s with
        boundIdx := true,
        phase := if s.phase = .uninit ∧ s.boundCb = true ∧ s.boundBias = true then .configured else s.phase })

/-! ### RESHAPE and the decoder -/

/-- R136: from `CONFIGURED`, the first condition of the table that holds, in its order, decides the fault. Each row is
stated under the negations of those before it; where no row of the table holds, no check of the model fails and
`RESHAPE` ends `READY`. -/
def Obligations.ReshapeFaultsInOrder : Prop :=
  ∀ s : State, s.phase = .configured →
    let c := s.cfg
    let W := c.wbits.toNat
    let K := c.k.toNat
    let raises := fun (code : BitVec 8) (info : Nat) =>
      exec .reshape s = .next (s.faulted code (min info (2 ^ 32 - 1)) 0x03000000#32)
    let slices := c.inWidth.toNat / c.m.toNat
    let b := K.log2
    let slackH := (c.inH.toNat : Int) + 2 * c.padH.toNat - (c.dilH.toNat * ((c.kernelH.toNat : Int) - 1) + 1)
    let slackW := (c.inW.toNat : Int) + 2 * c.padW.toNat - (c.dilW.toNat * ((c.kernelW.toNat : Int) - 1) + 1)
    let outH := slackH.toNat / c.strideH.toNat + 1
    let outW := slackW.toNat / c.strideW.toNat + 1
    let count := if c.mode.getLsbD 0 then slices * c.kernelH.toNat * c.kernelW.toNat * c.numOut.toNat
      else c.numOut.toNat * slices
    let req := (count * b + W - 1) / W
    let inExtent := if c.mode.getLsbD 0 then c.batch.toNat * c.inWidth.toNat * c.inH.toNat * c.inW.toNat
      else c.batch.toNat * c.inWidth.toNat
    let outExtent := if c.mode.getLsbD 0 then c.batch.toNat * c.numOut.toNat * outH * outW
      else c.batch.toNat * c.numOut.toNat
    let lutExtent := if c.mode.getLsbD 0 then K * c.inH.toNat * c.inW.toNat else c.batch.toNat * K
    (W ≠ 8 ∧ W ≠ 16 ∧ W ≠ 32 → raises 0x11 W) ∧
    (W = 8 ∨ W = 16 ∨ W = 32 →
      ((¬ ∃ e, K = 2 ^ e) → raises 0x01 K) ∧
      (K = 1 → raises 0x12 10) ∧
      ((∃ e, K = 2 ^ e) → K ≠ 1 →
        (W < b → raises 0x11 W) ∧
        (b ≤ W → Config.maxBits < b → raises 0x15 8) ∧
        (b ≤ W → b ≤ Config.maxBits →
          (c.m = 0 → raises 0x12 11) ∧
          (c.m ≠ 0 → c.numOut = 0 → raises 0x12 13) ∧
          (c.m ≠ 0 → c.numOut ≠ 0 → c.batch = 0 → raises 0x12 17) ∧
          (c.m ≠ 0 → c.numOut ≠ 0 → c.batch ≠ 0 → c.inWidth = 0 → raises 0x12 18) ∧
          (c.m ≠ 0 → c.numOut ≠ 0 → c.batch ≠ 0 → c.inWidth ≠ 0 →
            (c.inWidth ≠ c.totalWidth → raises 0x03 c.inWidth.toNat) ∧
            (c.inWidth = c.totalWidth → c.inWidth.toNat % c.m.toNat ≠ 0 → raises 0x02 c.inWidth.toNat) ∧
            (c.inWidth = c.totalWidth → c.inWidth.toNat % c.m.toNat = 0 →
              (c.mode.getLsbD 0 = true →
                (c.inH = 0 → raises 0x12 19) ∧
                (c.inH ≠ 0 → c.inW = 0 → raises 0x12 20) ∧
                (c.inH ≠ 0 → c.inW ≠ 0 → c.kernelH = 0 → raises 0x12 21) ∧
                (c.inH ≠ 0 → c.inW ≠ 0 → c.kernelH ≠ 0 → c.kernelW = 0 → raises 0x12 22) ∧
                (c.inH ≠ 0 → c.inW ≠ 0 → c.kernelH ≠ 0 → c.kernelW ≠ 0 →
                  (c.strideH = 0 → raises 0x12 25) ∧
                  (c.strideH ≠ 0 → c.strideW = 0 → raises 0x12 26) ∧
                  (c.strideH ≠ 0 → c.strideW ≠ 0 → c.dilH = 0 → raises 0x12 27) ∧
                  (c.strideH ≠ 0 → c.strideW ≠ 0 → c.dilH ≠ 0 → c.dilW = 0 → raises 0x12 28) ∧
                  (c.strideH ≠ 0 → c.strideW ≠ 0 → c.dilH ≠ 0 → c.dilW ≠ 0 →
                    (slackH < 0 → raises 0x16 0) ∧
                    (0 ≤ slackH → slackW < 0 → raises 0x16 1)))) ∧
              ((c.mode.getLsbD 0 = true → c.inH ≠ 0 ∧ c.inW ≠ 0 ∧ c.kernelH ≠ 0 ∧ c.kernelW ≠ 0 ∧
                  c.strideH ≠ 0 ∧ c.strideW ≠ 0 ∧ c.dilH ≠ 0 ∧ c.dilW ≠ 0 ∧ 0 ≤ slackH ∧ 0 ≤ slackW) →
                (c.cbLen.toNat ≠ c.totalWidth.toNat * K → raises 0x13 (c.totalWidth.toNat * K)) ∧
                (c.cbLen.toNat = c.totalWidth.toNat * K → c.biasLen ≠ c.numOut →
                  raises 0x14 c.numOut.toNat) ∧
                (c.cbLen.toNat = c.totalWidth.toNat * K → c.biasLen = c.numOut →
                  (c.idxLen.toNat < req → raises 0x04 req) ∧
                  (req < c.idxLen.toNat → raises 0x10 req) ∧
                  (c.idxLen.toNat = req →
                    (Config.capacity .cbmem < c.cbLen.toNat → raises 0x15 1) ∧
                    (c.cbLen.toNat ≤ Config.capacity .cbmem →
                      (Config.capacity .biasmem < c.biasLen.toNat → raises 0x15 2) ∧
                      (c.biasLen.toNat ≤ Config.capacity .biasmem →
                        (Config.capacity .idxmem < c.idxLen.toNat → raises 0x15 3) ∧
                        (c.idxLen.toNat ≤ Config.capacity .idxmem →
                          (Config.capacity .inmem < inExtent → raises 0x15 4) ∧
                          (inExtent ≤ Config.capacity .inmem →
                            (Config.capacity .outmem < outExtent → raises 0x15 5) ∧
                            (outExtent ≤ Config.capacity .outmem →
                              (Config.capacity .decmem < count → raises 0x15 6) ∧
                              (count ≤ Config.capacity .decmem →
                                (Config.capacity .lutmem < lutExtent → raises 0x15 7) ∧
                                (lutExtent ≤ Config.capacity .lutmem →
                                  (4096 < slices → raises 0x15 9) ∧
                                  (slices ≤ 4096 →
                                    (4096 < c.batch.toNat → raises 0x15 10) ∧
                                    (c.batch.toNat ≤ 4096 →
                                      firstFailing (reshapeChecks reference c) = none ∧
                                      ∃ t, exec .reshape s = .next t ∧ t.phase = .ready)))))))))))))))))

/-- R137: `RESHAPE` outside `FAULT`. In `UNINIT` it faults; in `READY` it changes nothing; from `CONFIGURED` the first
check of R136 that fails raises its fault, and with every check passed it decodes, fills `DECMEM`, writes the derived
registers of R41, drops the table and ends `READY`, and nothing else changes. -/
def Obligations.ReshapeMakesReady : Prop :=
  ∀ s : State,
    (s.phase = .uninit → exec .reshape s = .next (s.faulted 0x20 0 0x03000000#32)) ∧
    (s.phase = .ready → exec .reshape s = .next s) ∧
    (∀ k, s.phase = .configured → firstFailing (reshapeChecks reference s.cfg) = some k →
      exec .reshape s = .next (s.faulted k.err.code (min k.info (2 ^ 32 - 1)) 0x03000000#32)) ∧
    (s.phase = .configured → firstFailing (reshapeChecks reference s.cfg) = none →
      ∃ t codes, exec .reshape s = .next t ∧
        t = { s with
          phase := .ready, derived := t.derived, lut := LutTag.empty, decmem := t.decmem, lutmem := t.lutmem } ∧
        decodeCodes
          ((List.range s.cfg.idxLen.toNat).map fun q => (s.elem .idxmem q).toNat % 2 ^ s.cfg.wbits.toNat)
          t.derived.count.toNat t.derived.bits.toNat s.cfg.wbits.toNat = .ok codes ∧
        codes.length = t.derived.count.toNat ∧
        (∀ i x, codes[i]? = some x → (t.elem .decmem i).toNat = x) ∧
        s.cfg.k.toNat = 2 ^ t.derived.bits.toNat ∧
        t.derived.numSlices.toNat * s.cfg.m.toNat = s.cfg.inWidth.toNat ∧
        t.derived.reqWords = s.cfg.idxLen ∧
        (s.cfg.mode.getLsbD 0 = false →
          t.derived.count.toNat = s.cfg.numOut.toNat * t.derived.numSlices.toNat ∧
          t.derived.outH = 0 ∧ t.derived.outW = 0 ∧
          t.derived.inExtent.toNat = s.cfg.batch.toNat * s.cfg.inWidth.toNat ∧
          t.derived.outExtent.toNat = s.cfg.batch.toNat * s.cfg.numOut.toNat ∧
          t.derived.lutExtent.toNat = s.cfg.batch.toNat * s.cfg.k.toNat) ∧
        (s.cfg.mode.getLsbD 0 = true →
          t.derived.count.toNat =
            t.derived.numSlices.toNat * s.cfg.kernelH.toNat * s.cfg.kernelW.toNat * s.cfg.numOut.toNat ∧
          (t.derived.outH.toNat : Int) = ((s.cfg.inH.toNat : Int) + 2 * s.cfg.padH.toNat
            - (s.cfg.dilH.toNat * ((s.cfg.kernelH.toNat : Int) - 1) + 1)) / s.cfg.strideH.toNat + 1 ∧
          (t.derived.outW.toNat : Int) = ((s.cfg.inW.toNat : Int) + 2 * s.cfg.padW.toNat
            - (s.cfg.dilW.toNat * ((s.cfg.kernelW.toNat : Int) - 1) + 1)) / s.cfg.strideW.toNat + 1 ∧
          t.derived.inExtent.toNat =
            s.cfg.batch.toNat * s.cfg.inWidth.toNat * s.cfg.inH.toNat * s.cfg.inW.toNat ∧
          t.derived.outExtent.toNat =
            s.cfg.batch.toNat * s.cfg.numOut.toNat * t.derived.outH.toNat * t.derived.outW.toNat ∧
          t.derived.lutExtent.toNat = s.cfg.k.toNat * s.cfg.inH.toNat * s.cfg.inW.toNat))

/-- R133: a buffer of at least `ceil_div(n*b, W)` words always decodes, so no `RESHAPE` raises `ERR_DECODE_BOUNDS`. -/
def Obligations.SizedBufferDecodes : Prop :=
  (∀ (words : List Nat) (n b W : Nat), 1 ≤ b → b ≤ W → (n * b + W - 1) / W ≤ words.length →
    ∃ codes, decodeCodes words n b W = .ok codes ∧ codes.length = n) ∧
  ∀ (s : State) (info : Nat) (c : Word), s.phase ≠ .fault → exec .reshape s ≠ .next (s.faulted 0x05 info c)

/-- R130, R132: a decode fails exactly where some code needs a word at or past the end of the buffer, its first word or,
where it straddles, the next one, and it names that word of the first such code; it then gives no code at all. -/
def Obligations.FailedDecodeNamesMissingWord : Prop :=
  ∀ (words : List Nat) (n b W : Nat),
    let lacks := fun i q : Nat => words.length ≤ q ∧
      (q = i * b / W ∨ i * b / W < words.length ∧ W < i * b % W + b ∧ q = i * b / W + 1)
    (∀ q, decodeCodes words n b W = .error q ↔
      ∃ i, i < n ∧ lacks i q ∧ ∀ i' q', i' < i → ¬ lacks i' q') ∧
    ∀ i q, i < n → lacks i q → ∃ i' q', i' ≤ i ∧ lacks i' q' ∧ decodeCodes words n b W = .error q'

/-- R131: where decoding does not fail, code `i` is the number whose `b` bits, most significant first, are bits `i*b`
to `i*b + b - 1` of the bit string of R72, and it is below `2^b`. -/
def Obligations.DecodedCodeIsItsBits : Prop :=
  ∀ (words codes : List Nat) (n b W : Nat), 1 ≤ b → b ≤ W → (∀ w ∈ words, w < 2 ^ W) →
    decodeCodes words n b W = .ok codes →
    codes.length = n ∧ ∀ i x, codes[i]? = some x →
      x < 2 ^ b ∧ ∀ t, t < b → x.testBit (b - 1 - t) = streamBit words W (i * b + t)

/-- R135: decoding what the packer made of any codes below `2^b` gives the codes back, for every `b <= W`. -/
def Obligations.PackedCodesDecodeBack : Prop :=
  ∀ (codes : List Nat) (b W : Nat), 1 ≤ b → b ≤ W → (∀ x ∈ codes, x < 2 ^ b) →
    decodeCodes (packCodes codes b W) codes.length b W = .ok codes

/-! ### The multiplier -/

/-- R152: `MULV r, j`. -/
def Obligations.MulvBuildsRowTable : Prop :=
  ∀ (r j : BitVec 12) (s : State),
    let w : Word := 0x10000000#32 ||| r.setWidth 32 <<< 12 ||| j.setWidth 32
    (s.phase ≠ .fault → s.phase ≠ .ready → exec (.mulv r j) s = .next (s.faulted 0x20 0 w)) ∧
    (s.phase = .ready → s.cfg.spatial = true → exec (.mulv r j) s = .next (s.faulted 0x20 1 w)) ∧
    (s.phase = .ready → s.cfg.spatial = false → s.derived.numSlices.toNat ≤ j.toNat →
      exec (.mulv r j) s = .next (s.faulted 0x22 0 w)) ∧
    (s.phase = .ready → s.cfg.spatial = false → j.toNat < s.derived.numSlices.toNat →
      s.cfg.batch.toNat ≤ r.toNat → exec (.mulv r j) s = .next (s.faulted 0x22 1 w)) ∧
    (s.phase = .ready → s.cfg.spatial = false → j.toNat < s.derived.numSlices.toNat →
      r.toNat < s.cfg.batch.toNat →
      ∃ t, exec (.mulv r j) s = .next t ∧
        t = { s with lut := ⟨true, .v, j, r⟩, lutmem := t.lutmem } ∧
        ∀ k, k < s.cfg.k.toNat → t.elem .lutmem k =
          dotWith binary32 s.cfg.m.toNat
            (fun m => s.elem .cbmem ((j.toNat * s.cfg.m.toNat + m) * s.cfg.k.toNat + k))
            (fun m => s.elem .inmem (r.toNat * s.cfg.inWidth.toNat + j.toNat * s.cfg.m.toNat + m)))

/-- R153: `MULB j`. -/
def Obligations.MulbBuildsBatchTable : Prop :=
  ∀ (j : BitVec 12) (s : State),
    let w : Word := 0x11000000#32 ||| j.setWidth 32
    (∀ c, opcField c = 0x11 → rField c ≠ 0 → s.phase ≠ .fault → execWord exec c s = .next (s.faulted 0x21 1 c)) ∧
    (s.phase ≠ .fault → s.phase ≠ .ready → exec (.mulb j) s = .next (s.faulted 0x20 0 w)) ∧
    (s.phase = .ready → s.cfg.spatial = true → exec (.mulb j) s = .next (s.faulted 0x20 1 w)) ∧
    (s.phase = .ready → s.cfg.spatial = false → s.derived.numSlices.toNat ≤ j.toNat →
      exec (.mulb j) s = .next (s.faulted 0x22 0 w)) ∧
    (s.phase = .ready → s.cfg.spatial = false → j.toNat < s.derived.numSlices.toNat →
      ∃ t, exec (.mulb j) s = .next t ∧
        t = { s with lut := ⟨true, .b, j, 0⟩, lutmem := t.lutmem } ∧
        ∀ r k, r < s.cfg.batch.toNat → k < s.cfg.k.toNat → t.elem .lutmem (r * s.cfg.k.toNat + k) =
          dotWith binary32 s.cfg.m.toNat
            (fun m => s.elem .cbmem ((j.toNat * s.cfg.m.toNat + m) * s.cfg.k.toNat + k))
            (fun m => s.elem .inmem (r * s.cfg.inWidth.toNat + j.toNat * s.cfg.m.toNat + m)))

/-- R154: `MULS n, j`. -/
def Obligations.MulsBuildsPlaneTable : Prop :=
  ∀ (n j : BitVec 12) (s : State),
    let w : Word := 0x12000000#32 ||| n.setWidth 32 <<< 12 ||| j.setWidth 32
    let P := s.cfg.inH.toNat * s.cfg.inW.toNat
    (s.phase ≠ .fault → s.phase ≠ .ready → exec (.muls n j) s = .next (s.faulted 0x20 0 w)) ∧
    (s.phase = .ready → s.cfg.spatial = false → exec (.muls n j) s = .next (s.faulted 0x20 1 w)) ∧
    (s.phase = .ready → s.cfg.spatial = true → s.derived.numSlices.toNat ≤ j.toNat →
      exec (.muls n j) s = .next (s.faulted 0x22 0 w)) ∧
    (s.phase = .ready → s.cfg.spatial = true → j.toNat < s.derived.numSlices.toNat →
      s.cfg.batch.toNat ≤ n.toNat → exec (.muls n j) s = .next (s.faulted 0x22 1 w)) ∧
    (s.phase = .ready → s.cfg.spatial = true → j.toNat < s.derived.numSlices.toNat →
      n.toNat < s.cfg.batch.toNat →
      ∃ t, exec (.muls n j) s = .next t ∧
        t = { s with lut := ⟨true, .s, j, n⟩, lutmem := t.lutmem } ∧
        ∀ k p, k < s.cfg.k.toNat → p < P → t.elem .lutmem (k * P + p) =
          dotWith binary32 s.cfg.m.toNat
            (fun m => s.elem .cbmem ((j.toNat * s.cfg.m.toNat + m) * s.cfg.k.toNat + k))
            (fun m => s.elem .inmem ((n.toNat * s.cfg.inWidth.toNat + j.toNat * s.cfg.m.toNat + m) * P + p)))

/-- R155: after `MULB j`, row `r` of the table is bit for bit what `MULV r, j` would have built. -/
def Obligations.BatchTableAgreesWithRowTable : Prop :=
  ∀ (r j : BitVec 12) (s t u : State), s.phase = .ready → s.cfg.spatial = false →
    j.toNat < s.derived.numSlices.toNat → r.toNat < s.cfg.batch.toNat →
    exec (.mulb j) s = .next t → exec (.mulv r j) s = .next u →
    ∀ k, k < s.cfg.k.toNat → t.elem .lutmem (r.toNat * s.cfg.k.toNat + k) = u.elem .lutmem k

/-- R150, R190 with the exact rationals (R11, the other instance of `RealArith`): `dot` is the sum of the products, and
on any block whose arithmetic is exact `FWDL` leaves the linear layer in the outputs: the sum over all input dimensions
of the codebook element that the decoded index selects times the input, plus the bias. -/
def Obligations.ExactDotIsSum : Prop :=
  (∀ (width : Nat) (d x : Nat → ℚ), dotWith exactRationals width d x = ∑ m ∈ Finset.range width, d m * x m) ∧
  ∀ (p : Params ℚ) (s : State.Of p), p.Valid → p.real = exactRationals → s.Inv → s.phase = .ready →
    s.cfg.spatial = false →
    let c := s.cfg
    let NO := c.numOut.toNat
    let K := c.k.toNat
    let M := c.m.toNat
    ∃ t, execOn .fwdl s = .next t ∧
      (∀ r l, r < c.batch.toNat → l < NO → t.elem .outmem (r * NO + l) =
        (∑ j ∈ Finset.range s.derived.numSlices.toNat, ∑ m ∈ Finset.range M,
          s.elem .cbmem ((j * M + m) * K + (p.toWord (s.elem .decmem (j * NO + l))).toNat) *
            s.elem .inmem (r * c.inWidth.toNat + j * M + m)) + s.elem .biasmem l) ∧
      ∀ e, s.derived.outExtent.toNat ≤ e → t.elem .outmem e = s.elem .outmem e

/-- R11, R156, G2: sums and products of finite operands are rounded to nearest, ties to even: no finite pattern `c` lies
nearer to the exact value than the result; where another lies as near, the last bit of the result is 0; the result is an
infinity exactly from half a unit past the largest finite value on, and has the sign of the exact value; an exact sum of
0 is -0.0 where both operands are negative and +0.0 otherwise; a product, zero or infinite too, is negative where
one operand is (binary32 is the model's choice, log 4). Values are integers, in units of `2^-149` (sums) and `2^-298`
(products). -/
def Obligations.ArithmeticRoundsToNearest : Prop :=
  ∀ a b c : Word, f32Exponent a ≠ 255 → f32Exponent b ≠ 255 → f32Exponent c ≠ 255 →
    let sum := f32Scaled a + f32Scaled b
    let product := f32Scaled a * f32Scaled b
    let nearest := fun (r : Word) (scale : Nat) (exact : Int) => f32IsNaN r = false ∧
      (f32IsInf r = true ↔ (2 ^ 25 - 1) * 2 ^ 252 * scale ≤ exact.natAbs) ∧
      (f32IsInf r = false →
        (f32Scaled r * scale - exact).natAbs ≤ (f32Scaled c * scale - exact).natAbs ∧
        ((f32Scaled r * scale - exact).natAbs = (f32Scaled c * scale - exact).natAbs →
          f32Scaled c ≠ f32Scaled r → r.getLsbD 0 = false))
    nearest (radd a b) 1 sum ∧ nearest (rmul a b) (2 ^ 149) product ∧
    (sum ≠ 0 → f32Negative (radd a b) = decide (sum < 0)) ∧
    (sum = 0 → radd a b = if f32Negative a && f32Negative b then 0x80000000#32 else 0x00000000#32) ∧
    f32Negative (rmul a b) = (f32Negative a != f32Negative b)

/-- R156, with binary32 (the model's choice, log 4): a table entry that is a zero is +0.0, whatever the operands. -/
def Obligations.DotIsNeverNegativeZero : Prop :=
  ∀ (width : Nat) (d x : Nat → Word), dotWith binary32 width d x ≠ 0x80000000#32

/-- R156, with binary32 (the model's choice, log 4): NaN operands give NaN, an infinity times a zero and the sum of
opposite infinities give NaN; an infinity plus a finite value or plus itself is that infinity, and an infinity times
anything else is the infinity of the product's sign; a sum is -0.0 only when both operands are. -/
def Obligations.InvalidOperationsGiveNaN : Prop :=
  ∀ a b : Word,
    (f32IsNaN a = true ∨ f32IsNaN b = true → f32IsNaN (radd a b) = true ∧ f32IsNaN (rmul a b) = true) ∧
    (f32IsInf a = true → b.setWidth 31 = 0#31 →
      f32IsNaN (rmul a b) = true ∧ f32IsNaN (rmul b a) = true) ∧
    (f32IsInf a = true → b = a ^^^ 0x80000000#32 → f32IsNaN (radd a b) = true) ∧
    (f32IsInf a = true → f32Exponent b ≠ 255 ∨ b = a → radd a b = a ∧ radd b a = a) ∧
    (f32IsInf a = true → f32IsNaN b = false → b.setWidth 31 ≠ 0#31 →
      let infinity := if f32Negative a = f32Negative b then 0x7F800000#32 else 0xFF800000#32
      rmul a b = infinity ∧ rmul b a = infinity) ∧
    (radd a b = 0x80000000#32 ↔ a = 0x80000000#32 ∧ b = 0x80000000#32)

/-! ### The gather-accumulator -/

/-- R170: `ZERO`. -/
def Obligations.ZeroClearsOutput : Prop :=
  ∀ s : State,
    (s.phase ≠ .fault → s.phase ≠ .ready → exec .zero s = .next (s.faulted 0x20 0 0x20000000#32)) ∧
    (s.phase = .ready → ∃ t, exec .zero s = .next t ∧ t = { s with outmem := t.outmem } ∧
      ∀ e, t.elem .outmem e = if e < s.derived.outExtent.toNat then rzero else s.elem .outmem e)

/-- R172, R171: `GACV r, j`. -/
def Obligations.GacvAddsRow : Prop :=
  ∀ (r j : BitVec 12) (s : State),
    let w : Word := 0x21000000#32 ||| r.setWidth 32 <<< 12 ||| j.setWidth 32
    let NO := s.cfg.numOut.toNat
    (s.phase ≠ .fault → s.phase ≠ .ready → exec (.gacv r j) s = .next (s.faulted 0x20 0 w)) ∧
    (s.phase = .ready → s.cfg.spatial = true → exec (.gacv r j) s = .next (s.faulted 0x20 1 w)) ∧
    (s.phase = .ready → s.cfg.spatial = false → s.derived.numSlices.toNat ≤ j.toNat →
      exec (.gacv r j) s = .next (s.faulted 0x22 0 w)) ∧
    (s.phase = .ready → s.cfg.spatial = false → j.toNat < s.derived.numSlices.toNat →
      s.cfg.batch.toNat ≤ r.toNat → exec (.gacv r j) s = .next (s.faulted 0x22 1 w)) ∧
    (s.phase = .ready → s.cfg.spatial = false → j.toNat < s.derived.numSlices.toNat →
      r.toNat < s.cfg.batch.toNat → s.lut ≠ ⟨true, .v, j, r⟩ →
      exec (.gacv r j) s = .next (s.faulted 0x20 2 w)) ∧
    (s.phase = .ready → s.cfg.spatial = false → j.toNat < s.derived.numSlices.toNat →
      r.toNat < s.cfg.batch.toNat → s.lut = ⟨true, .v, j, r⟩ →
      ∃ t, exec (.gacv r j) s = .next t ∧
        t = { s with outmem := t.outmem, lut := ⟨false, .none, 0, 0⟩, lutmem := t.lutmem } ∧
        (∀ l, l < NO → t.elem .outmem (r.toNat * NO + l) =
          radd (s.elem .outmem (r.toNat * NO + l))
            (s.elem .lutmem (s.elem .decmem (j.toNat * NO + l)).toNat)) ∧
        ∀ e, e < r.toNat * NO ∨ r.toNat * NO + NO ≤ e → t.elem .outmem e = s.elem .outmem e)

/-- R173, R171: `GACB j`. -/
def Obligations.GacbAddsEveryRow : Prop :=
  ∀ (j : BitVec 12) (s : State),
    let w : Word := 0x22000000#32 ||| j.setWidth 32
    let NO := s.cfg.numOut.toNat
    (∀ c, opcField c = 0x22 → rField c ≠ 0 → s.phase ≠ .fault → execWord exec c s = .next (s.faulted 0x21 1 c)) ∧
    (s.phase ≠ .fault → s.phase ≠ .ready → exec (.gacb j) s = .next (s.faulted 0x20 0 w)) ∧
    (s.phase = .ready → s.cfg.spatial = true → exec (.gacb j) s = .next (s.faulted 0x20 1 w)) ∧
    (s.phase = .ready → s.cfg.spatial = false → s.derived.numSlices.toNat ≤ j.toNat →
      exec (.gacb j) s = .next (s.faulted 0x22 0 w)) ∧
    (s.phase = .ready → s.cfg.spatial = false → j.toNat < s.derived.numSlices.toNat →
      s.lut ≠ ⟨true, .b, j, 0⟩ → exec (.gacb j) s = .next (s.faulted 0x20 2 w)) ∧
    (s.phase = .ready → s.cfg.spatial = false → j.toNat < s.derived.numSlices.toNat →
      s.lut = ⟨true, .b, j, 0⟩ →
      ∃ t, exec (.gacb j) s = .next t ∧
        t = { s with outmem := t.outmem, lut := ⟨false, .none, 0, 0⟩, lutmem := t.lutmem } ∧
        (∀ r l, r < s.cfg.batch.toNat → l < NO → t.elem .outmem (r * NO + l) =
          radd (s.elem .outmem (r * NO + l))
            (s.elem .lutmem (r * s.cfg.k.toNat + (s.elem .decmem (j.toNat * NO + l)).toNat))) ∧
        ∀ e, s.cfg.batch.toNat * NO ≤ e → t.elem .outmem e = s.elem .outmem e)

/-- R175, R174, R171: `GACS n, j`. An output element receives, in ascending `kh` then `kw`, the table value of each
tap whose input coordinate is in bounds; elements of other images are not touched. -/
def Obligations.GacsAddsWindow : Prop :=
  ∀ (n j : BitVec 12) (s : State),
    let w : Word := 0x23000000#32 ||| n.setWidth 32 <<< 12 ||| j.setWidth 32
    let c := s.cfg
    let NO := c.numOut.toNat
    let OH := s.derived.outH.toNat
    let OW := s.derived.outW.toNat
    let KH := c.kernelH.toNat
    let KW := c.kernelW.toNat
    let P := c.inH.toNat * c.inW.toNat
    (s.phase ≠ .fault → s.phase ≠ .ready → exec (.gacs n j) s = .next (s.faulted 0x20 0 w)) ∧
    (s.phase = .ready → s.cfg.spatial = false → exec (.gacs n j) s = .next (s.faulted 0x20 1 w)) ∧
    (s.phase = .ready → s.cfg.spatial = true → s.derived.numSlices.toNat ≤ j.toNat →
      exec (.gacs n j) s = .next (s.faulted 0x22 0 w)) ∧
    (s.phase = .ready → s.cfg.spatial = true → j.toNat < s.derived.numSlices.toNat →
      s.cfg.batch.toNat ≤ n.toNat → exec (.gacs n j) s = .next (s.faulted 0x22 1 w)) ∧
    (s.phase = .ready → s.cfg.spatial = true → j.toNat < s.derived.numSlices.toNat →
      n.toNat < s.cfg.batch.toNat → s.lut ≠ ⟨true, .s, j, n⟩ →
      exec (.gacs n j) s = .next (s.faulted 0x20 2 w)) ∧
    (s.phase = .ready → s.cfg.spatial = true → j.toNat < s.derived.numSlices.toNat →
      n.toNat < s.cfg.batch.toNat → s.lut = ⟨true, .s, j, n⟩ →
      ∃ t, exec (.gacs n j) s = .next t ∧
        t = { s with outmem := t.outmem, lut := ⟨false, .none, 0, 0⟩, lutmem := t.lutmem } ∧
        (∀ ch oh ow : Nat, ch < NO → oh < OH → ow < OW →
          let e := ((n.toNat * NO + ch) * OH + oh) * OW + ow
          let added := (List.range KH).flatMap fun (kh : Nat) => (List.range KW).flatMap fun (kw : Nat) =>
            let ih : Int := (oh * c.strideH.toNat : Int) + kh * c.dilH.toNat - c.padH.toNat
            let iw : Int := (ow * c.strideW.toNat : Int) + kw * c.dilW.toNat - c.padW.toNat
            if 0 ≤ ih ∧ ih < c.inH.toNat ∧ 0 ≤ iw ∧ iw < c.inW.toNat then
              [s.elem .lutmem ((s.elem .decmem (((j.toNat * KH + kh) * KW + kw) * NO + ch)).toNat * P
                + ih.toNat * c.inW.toNat + iw.toNat)]
            else []
          t.elem .outmem e = added.foldl radd (s.elem .outmem e)) ∧
        ∀ e, e < n.toNat * NO * OH * OW ∨ (n.toNat + 1) * NO * OH * OW ≤ e →
          t.elem .outmem e = s.elem .outmem e)

/-- R176, R32: `BIAS`. Linear mode adds the bias always; spatial mode only with `BIAS_EN`; the tag is kept. -/
def Obligations.BiasAddsOnce : Prop :=
  ∀ s : State,
    let NO := s.cfg.numOut.toNat
    let Q := s.derived.outH.toNat * s.derived.outW.toNat
    (s.phase ≠ .fault → s.phase ≠ .ready → exec .bias s = .next (s.faulted 0x20 0 0x24000000#32)) ∧
    (s.phase = .ready → s.cfg.mode.getLsbD 0 = false →
      ∃ t, exec .bias s = .next t ∧ t = { s with outmem := t.outmem } ∧
        (∀ r l, r < s.cfg.batch.toNat → l < NO → t.elem .outmem (r * NO + l) =
          radd (s.elem .outmem (r * NO + l)) (s.elem .biasmem l)) ∧
        ∀ e, s.cfg.batch.toNat * NO ≤ e → t.elem .outmem e = s.elem .outmem e) ∧
    (s.phase = .ready → s.cfg.mode.getLsbD 0 = true → s.cfg.mode.getLsbD 1 = true →
      ∃ t, exec .bias s = .next t ∧ t = { s with outmem := t.outmem } ∧
        (∀ n ch q, n < s.cfg.batch.toNat → ch < NO → q < Q → t.elem .outmem ((n * NO + ch) * Q + q) =
          radd (s.elem .outmem ((n * NO + ch) * Q + q)) (s.elem .biasmem ch)) ∧
        ∀ e, s.cfg.batch.toNat * NO * Q ≤ e → t.elem .outmem e = s.elem .outmem e) ∧
    (s.phase = .ready → s.cfg.mode.getLsbD 0 = true → s.cfg.mode.getLsbD 1 = false →
      exec .bias s = .next s)

/-! ### The forward commands -/

/-- R190: `FWDL` from a well-kept `READY` state in linear mode: each output is
`((rzero + t_0) + ... + t_{S-1}) + bias[l]`, elements from `OUT_EXTENT` on are not touched, the tag is clear. -/
def Obligations.FwdlComputesLinearLayer : Prop :=
  ∀ s : State,
    let c := s.cfg
    let NO := c.numOut.toNat
    let K := c.k.toNat
    let M := c.m.toNat
    (∀ w, opcField w = 0x30 → w ≠ 0x30000000#32 → s.phase ≠ .fault → execWord exec w s = .next (s.faulted 0x21 1 w)) ∧
    (s.phase ≠ .fault → s.phase ≠ .ready → exec .fwdl s = .next (s.faulted 0x20 0 0x30000000#32)) ∧
    (s.phase = .ready → c.spatial = true → exec .fwdl s = .next (s.faulted 0x20 1 0x30000000#32)) ∧
    (s.Inv → s.phase = .ready → c.spatial = false →
      ∃ t, exec .fwdl s = .next t ∧
        t = { s with outmem := t.outmem, lut := ⟨false, .none, 0, 0⟩, lutmem := t.lutmem } ∧
        (∀ r l, r < c.batch.toNat → l < NO → t.elem .outmem (r * NO + l) =
          radd ((List.range s.derived.numSlices.toNat).foldl
            (fun acc j => radd acc (dotWith binary32 M
              (fun m => s.elem .cbmem ((j * M + m) * K + (s.elem .decmem (j * NO + l)).toNat))
              (fun m => s.elem .inmem (r * c.inWidth.toNat + j * M + m)))) rzero)
            (s.elem .biasmem l)) ∧
        ∀ e, s.derived.outExtent.toNat ≤ e → t.elem .outmem e = s.elem .outmem e)

/-- R191: `FWDS` from a well-kept `READY` state in spatial mode: each output element is, from `rzero`, the table
values of its in-bounds taps in ascending `j`, `kh`, `kw`, then the bias if `BIAS_EN`. -/
def Obligations.FwdsComputesConvolution : Prop :=
  ∀ s : State,
    let c := s.cfg
    let NO := c.numOut.toNat
    let K := c.k.toNat
    let M := c.m.toNat
    let OH := s.derived.outH.toNat
    let OW := s.derived.outW.toNat
    let KH := c.kernelH.toNat
    let KW := c.kernelW.toNat
    let P := c.inH.toNat * c.inW.toNat
    (∀ w, opcField w = 0x31 → w ≠ 0x31000000#32 → s.phase ≠ .fault → execWord exec w s = .next (s.faulted 0x21 1 w)) ∧
    (s.phase ≠ .fault → s.phase ≠ .ready → exec .fwds s = .next (s.faulted 0x20 0 0x31000000#32)) ∧
    (s.phase = .ready → c.spatial = false → exec .fwds s = .next (s.faulted 0x20 1 0x31000000#32)) ∧
    (s.Inv → s.phase = .ready → c.spatial = true →
      ∃ t, exec .fwds s = .next t ∧
        t = { s with outmem := t.outmem, lut := ⟨false, .none, 0, 0⟩, lutmem := t.lutmem } ∧
        (∀ n ch oh ow : Nat, n < c.batch.toNat → ch < NO → oh < OH → ow < OW →
          let added := (List.range s.derived.numSlices.toNat).flatMap fun (j : Nat) =>
            (List.range KH).flatMap fun (kh : Nat) => (List.range KW).flatMap fun (kw : Nat) =>
              let ih : Int := (oh * c.strideH.toNat : Int) + kh * c.dilH.toNat - c.padH.toNat
              let iw : Int := (ow * c.strideW.toNat : Int) + kw * c.dilW.toNat - c.padW.toNat
              if 0 ≤ ih ∧ ih < c.inH.toNat ∧ 0 ≤ iw ∧ iw < c.inW.toNat then
                [dotWith binary32 M
                  (fun m => s.elem .cbmem ((j * M + m) * K
                    + (s.elem .decmem (((j * KH + kh) * KW + kw) * NO + ch)).toNat))
                  (fun m => s.elem .inmem ((n * c.inWidth.toNat + j * M + m) * P
                    + (ih.toNat * c.inW.toNat + iw.toNat)))]
              else []
          t.elem .outmem (((n * NO + ch) * OH + oh) * OW + ow) =
            if c.biasEn then radd (added.foldl radd rzero) (s.elem .biasmem ch)
            else added.foldl radd rzero) ∧
        ∀ e, s.derived.outExtent.toNat ≤ e → t.elem .outmem e = s.elem .outmem e)

/-- R192: `FWDL` leaves the state that `ZERO`, then `MULB j`, `GACB j` for each slice, then `BIAS` leave; and the same
outputs and tag, all but the unreadable table, as `MULV r, j`, `GACV r, j` over all rows and slices, in any order in
which `j` ascends for each `r`. -/
def Obligations.FwdlEqualsCommandSequence : Prop :=
  ∀ s : State, s.Inv → s.phase = .ready → s.cfg.spatial = false →
    exec .fwdl s = execAll
      ([.zero] ++ ((List.range s.derived.numSlices.toNat).flatMap fun j =>
        [.mulb (BitVec.ofNat 12 j), .gacb (BitVec.ofNat 12 j)]) ++ [.bias]) s ∧
    ∀ pairs : List (Nat × Nat), (∀ p ∈ pairs, p.1 < s.cfg.batch.toNat) →
      (∀ r, r < s.cfg.batch.toNat →
        (pairs.filter fun p => p.1 == r).map Prod.snd = List.range s.derived.numSlices.toNat) →
      ∃ t u, exec .fwdl s = .next t ∧
        execAll ([.zero] ++ (pairs.flatMap fun p =>
          [.mulv (BitVec.ofNat 12 p.1) (BitVec.ofNat 12 p.2), .gacv (BitVec.ofNat 12 p.1) (BitVec.ofNat 12 p.2)])
          ++ [.bias]) s = .next u ∧
        u = { t with outmem := u.outmem, lutmem := u.lutmem } ∧ ∀ e, u.elem .outmem e = t.elem .outmem e

/-- R193: `FWDS` leaves the state that `ZERO`, then `MULS n, j`, `GACS n, j` for each image and slice, then `BIAS`
leave; and any order of the pairs in which `j` ascends for each `n` leaves the same `OUTMEM`. -/
def Obligations.FwdsEqualsCommandSequence : Prop :=
  ∀ s : State, s.Inv → s.phase = .ready → s.cfg.spatial = true →
    exec .fwds s = execAll
      ([.zero] ++ ((List.range s.cfg.batch.toNat).flatMap fun n =>
        (List.range s.derived.numSlices.toNat).flatMap fun j =>
          [.muls (BitVec.ofNat 12 n) (BitVec.ofNat 12 j), .gacs (BitVec.ofNat 12 n) (BitVec.ofNat 12 j)])
        ++ [.bias]) s ∧
    ∀ pairs : List (Nat × Nat), (∀ p ∈ pairs, p.1 < s.cfg.batch.toNat) →
      (∀ n, n < s.cfg.batch.toNat →
        (pairs.filter fun p => p.1 == n).map Prod.snd = List.range s.derived.numSlices.toNat) →
      ∃ t u, exec .fwds s = .next t ∧
        execAll ([.zero] ++ (pairs.flatMap fun p =>
          [.muls (BitVec.ofNat 12 p.1) (BitVec.ofNat 12 p.2), .gacs (BitVec.ofNat 12 p.1) (BitVec.ofNat 12 p.2)])
          ++ [.bias]) s = .next u ∧
        u = { t with outmem := u.outmem, lutmem := u.lutmem } ∧ ∀ e, u.elem .outmem e = t.elem .outmem e

/-- R178 item 1: an output position all of whose taps fall in the padding is `radd(rzero, BIASV[c])` with the bias
enabled, and `rzero` without. -/
def Obligations.PaddingOnlyOutputIsBias : Prop :=
  ∀ (s t : State) (n ch oh ow : Nat), s.Inv → s.phase = .ready → s.cfg.spatial = true →
    exec .fwds s = .next t → n < s.cfg.batch.toNat → ch < s.cfg.numOut.toNat →
    oh < s.derived.outH.toNat → ow < s.derived.outW.toNat →
    (∀ kh kw : Nat, kh < s.cfg.kernelH.toNat → kw < s.cfg.kernelW.toNat →
      let ih : Int := (oh * s.cfg.strideH.toNat : Int) + kh * s.cfg.dilH.toNat - s.cfg.padH.toNat
      let iw : Int := (ow * s.cfg.strideW.toNat : Int) + kw * s.cfg.dilW.toNat - s.cfg.padW.toNat
      ih < 0 ∨ (s.cfg.inH.toNat : Int) ≤ ih ∨ iw < 0 ∨ (s.cfg.inW.toNat : Int) ≤ iw) →
    t.elem .outmem (((n * s.cfg.numOut.toNat + ch) * s.derived.outH.toNat + oh) * s.derived.outW.toNat + ow) =
      if s.cfg.biasEn then radd rzero (s.elem .biasmem ch) else rzero

/-- R194: a forward command either faults at its own phase or mode check, having written nothing, or completes with
the block still `READY`; no memory but `OUTMEM` and the lookup cache changes. -/
def Obligations.ForwardIsAllOrNothing : Prop :=
  ∀ (s : State) (i : Instr), i = .fwdl ∨ i = .fwds → s.phase ≠ .fault →
    ∃ t, exec i s = .next t ∧
      ((∃ info, (info = 0 ∨ info = 1) ∧ t = s.faulted 0x20 info (encode i)) ∨
       (s.phase = .ready ∧
        t = { s with outmem := t.outmem, lut := t.lut, lutmem := t.lutmem }))

/-! ### Rules of the whole machine -/

/-- R212: a fault is precise: of any command word, legal or not, in any state, the state after a fault is the state
before it with only `PHASE`, `ERR`, `ERRINFO` and `ERRCMD` changed; `ERRCMD` is the word and `ERR` a code of R200. -/
def Obligations.FaultsArePrecise : Prop :=
  ∀ (c : Word) (s t : State), s.phase ≠ .fault → execWord exec c s = .next t → t.phase = .fault →
    ∃ code info, t = s.faulted code info c ∧
      code ∈ [0x01, 0x02, 0x03, 0x04, 0x05, 0x10, 0x11, 0x12, 0x13, 0x14, 0x15, 0x16, 0x20, 0x21, 0x22]

/-- R40, R243: no command writes `CBMEM`, `BIASMEM`, `IDXMEM` or `INMEM`; only `RESHAPE` and `RESET` change what
`DECMEM` holds; only `RESET` changes a configuration register. -/
def Obligations.CommandsKeepParametersAndInput : Prop :=
  ∀ (i : Instr) (s t : State), exec i s = .next t →
    t.cbmem = s.cbmem ∧ t.biasmem = s.biasmem ∧ t.idxmem = s.idxmem ∧ t.inmem = s.inmem ∧
    (i ≠ .reshape → i ≠ .reset → t.decmem = s.decmem) ∧ (i ≠ .reset → t.cfg = s.cfg)

/-- R24: a step takes the block to `READY` only where it serves the write of the `RESHAPE` word to `CMD` in
`CONFIGURED`, and out of `FAULT` only where it serves the write of the `RESET` word; of the commands, only these two
do. -/
def Obligations.OnlyReshapeMakesReady : Prop :=
  (∀ s t : State, step s = .next t →
    (t.phase = .ready → s.phase ≠ .ready → s.phase = .configured ∧
      ∃ q rest, s.pending = q :: rest ∧ q.commands reference 0x03000000#32) ∧
    (s.phase = .fault → t.phase ≠ .fault →
      ∃ q rest, s.pending = q :: rest ∧ q.commands reference 0x01000000#32)) ∧
  ∀ (i : Instr) (s t : State), exec i s = .next t →
    (t.phase = .ready → s.phase ≠ .ready → i = .reshape ∧ s.phase = .configured) ∧
    (s.phase = .fault → t.phase ≠ .fault → i = .reset)

/-- R241: `ZERO`, `BIAS`, `NOP` and a `RESHAPE` in `READY` keep the table and its tag; the gather that uses the table
does not, nor does a step outside `FAULT` that serves an accepted host write to `INMEM`, as an access or through the
bus (R69). -/
def Obligations.TableSurvivesUntilUsed : Prop :=
  (∀ (i : Instr) (s t : State), i = .zero ∨ i = .bias ∨ i = .nop ∨ i = .reshape → s.phase = .ready →
    exec i s = .next t → t.lut = s.lut ∧ t.lutmem = s.lutmem) ∧
  (∀ (i : Instr) (s t : State), (∃ r j, i = .gacv r j) ∨ (∃ j, i = .gacb j) ∨ (∃ n j, i = .gacs n j) →
    exec i s = .next t → s.phase = .ready → t.phase = .ready → s.lut.valid = true ∧ t.lut.valid = false) ∧
  (∀ (s t : State) (q : Request Word) (rest : List (Request Word)) (i : Nat) (v : Word), s.phase ≠ .fault →
    s.pending = q :: rest → q.translate reference = some (.memWrite .inmem i v) → i < Config.capacity .inmem →
    step s = .next t → t.reply = .accepted ∧ t.lut = ⟨false, .none, 0, 0⟩)

/-- R66, R202, R212: no access and no command ever stops the machine: every step answers a next state, a host program
runs to its end on the block with any parameters (R47), and a step is the program of the one request it serves. -/
def Obligations.EveryStepHasNextState : Prop :=
  (∀ s : State, ∃ t, step s = .next t) ∧
  ∀ (α : Type) (p : Params α) (s : State.Of p),
    (∀ program : List (Request α), ∃ t, runProgram program s = .next t) ∧
    ∀ q rest, s.pending = q :: rest → stepOn s = runProgram [q] { s with pending := rest }

/-- R45, R46: the invariant holds at reset. -/
def Obligations.InvariantHoldsAtReset : Prop :=
  State.reset.Inv

/-- R45 items 1 to 4 and 6, R26: every host access and every command keeps the lifecycle invariant. -/
def Obligations.StepKeepsLifecycle : Prop :=
  ∀ s t : State, s.Lifecycle → step s = .next t → t.Lifecycle

/-- R45 item 5, R42: every step keeps what `READY` promises: the checks of R136, the derived registers, and a
`DECMEM` that is the decoded packed buffer. -/
def Obligations.StepKeepsReadyPromise : Prop :=
  ∀ s t : State, s.Lifecycle → (s.phase = .ready → s.Ready) → step s = .next t → t.phase = .ready → t.Ready

/-- R43: a valid table is never stale: every step keeps the valid table equal to the products of what `CBMEM` and
`INMEM` hold at that moment. -/
def Obligations.ValidTableIsNeverStale : Prop :=
  ∀ s t : State, s.Lifecycle → (s.phase = .ready → s.Ready) → (s.lut.valid = true → s.Table) →
    step s = .next t → t.lut.valid = true → t.Table

/-- The canonical form of the seven memories is kept by every step (the model's own representation, log 7). -/
def Obligations.StepKeepsMemoriesCanonical : Prop :=
  ∀ s t : State, s.Canonical → step s = .next t → t.Canonical

/-- R45, R62, R177: every step from a well-kept state leaves a well-kept one, whatever the parameters (R9: no rule
depends on a default), so no memory lists an element past its capacity; and in a well-kept `READY` state every index a
command generates is inside its object, and the object inside its memory: of `CBMEM`, `INMEM`, `DECMEM`, `LUTMEM` by the
layout of the table's kind, `OUTMEM` and `BIASMEM`. The packed words that `RESHAPE` reads are inside `IDXMEM` wherever
its checks pass, and in `READY`. `Params.Valid` is the column of R9 and two constraints of the model's own, capacities
below 2^32 and words that come back from their elements (log 16). -/
def Obligations.StepKeepsInvariant : Prop :=
  (∀ s t : State, s.Inv → step s = .next t → t.Inv) ∧
  (∀ (α : Type) (p : Params α), p.Valid → ∀ s t : State.Of p, s.Inv → stepOn s = .next t → t.Inv) ∧
  (∀ (α : Type) (p : Params α) (s : State.Of p), firstFailing (reshapeChecks p s.cfg) = none →
    ∀ q, q < s.cfg.idxLen.toNat → q < p.capacity .idxmem) ∧
  ∀ (α : Type) (p : Params α), p.Valid → ∀ s : State.Of p, s.Inv → s.phase = .ready →
    let c := s.cfg
    let inside := fun (sp : Space) (length i : Nat) => i < length ∧ length ≤ p.capacity sp
    let K := c.k.toNat
    let M := c.m.toNat
    let NO := c.numOut.toNat
    let P := c.inH.toNat * c.inW.toNat
    let S := s.derived.numSlices.toNat
    (∀ j m k, j < S → m < M → k < K → inside .cbmem c.cbLen.toNat ((j * M + m) * K + k)) ∧
    (∀ l, l < NO → inside .biasmem c.biasLen.toNat l) ∧
    (∀ q, q < c.idxLen.toNat → inside .idxmem c.idxLen.toNat q) ∧
    (c.spatial = false → ∀ r j, r < c.batch.toNat → j < S →
      (∀ m, m < M → inside .inmem s.derived.inExtent.toNat (r * c.inWidth.toNat + j * M + m)) ∧
      ∀ l, l < NO →
        let code := (p.toWord (s.elem .decmem (j * NO + l))).toNat
        inside .decmem s.derived.count.toNat (j * NO + l) ∧ inside .lutmem K code ∧
        inside .lutmem (c.batch.toNat * K) (r * K + code) ∧
        inside .outmem s.derived.outExtent.toNat (r * NO + l)) ∧
    (c.spatial = true → ∀ n j, n < c.batch.toNat → j < S →
      (∀ m pos, m < M → pos < P →
        inside .inmem s.derived.inExtent.toNat ((n * c.inWidth.toNat + j * M + m) * P + pos)) ∧
      ∀ ch kh kw oh ow : Nat, ch < NO → kh < c.kernelH.toNat → kw < c.kernelW.toNat →
        oh < s.derived.outH.toNat → ow < s.derived.outW.toNat →
        let entry := ((j * c.kernelH.toNat + kh) * c.kernelW.toNat + kw) * NO + ch
        let code := (p.toWord (s.elem .decmem entry)).toNat
        let ih : Int := (oh * c.strideH.toNat : Int) + kh * c.dilH.toNat - c.padH.toNat
        let iw : Int := (ow * c.strideW.toNat : Int) + kw * c.dilW.toNat - c.padW.toNat
        inside .decmem s.derived.count.toNat entry ∧
        (0 ≤ ih ∧ ih < c.inH.toNat ∧ 0 ≤ iw ∧ iw < c.inW.toNat →
          inside .lutmem (K * P) (code * P + ih.toNat * c.inW.toNat + iw.toNat)) ∧
        inside .outmem s.derived.outExtent.toNat
          (((n * NO + ch) * s.derived.outH.toNat + oh) * s.derived.outW.toNat + ow))

/-- R42: in a well-kept `READY` state every entry of `DECMEM` below `COUNT` is the code that decoding the packed
buffer gives there, and it is below `K`. -/
def Obligations.DecodedIndicesBelowK : Prop :=
  ∀ s : State, s.Inv → s.phase = .ready →
    ∃ codes, decodeCodes
        ((List.range s.cfg.idxLen.toNat).map fun q => (s.elem .idxmem q).toNat % 2 ^ s.cfg.wbits.toNat)
        s.derived.count.toNat s.derived.bits.toNat s.cfg.wbits.toNat = .ok codes ∧
      ∀ i, i < s.derived.count.toNat →
        codes[i]? = some (s.elem .decmem i).toNat ∧ (s.elem .decmem i).toNat < s.cfg.k.toNat
end

