-- ==== Sys2Proof/Laws/Binary32.lean ====
section
/-! SUPPORT. The fields of an assembled binary32 pattern, what rounding gives, and `radd`, `rmul` of finite operands
(spec/00_scope.md R11; log 4). -/

namespace Sys2Proof.Machine

/-- The exponent of an assembled pattern. -/
theorem f32Exponent_signed (neg : Bool) (low : Nat) (_ : low < 2^31) :
    f32Exponent (f32Signed neg low) = low / 2^23 := by
  simp only [f32Exponent, f32Signed, BitVec.extractLsb'_toNat, BitVec.toNat_ofNat, Nat.shiftRight_eq_div_pow]
  cases neg <;> simp <;> omega

/-- The fraction of an assembled pattern. -/
theorem f32Fraction_signed (neg : Bool) (low : Nat) (_ : low < 2^31) :
    f32Fraction (f32Signed neg low) = low % 2^23 := by
  simp only [f32Fraction, f32Signed, BitVec.extractLsb'_toNat, BitVec.toNat_ofNat, Nat.shiftRight_eq_div_pow]
  cases neg <;> simp <;> omega

/-- The sign of an assembled pattern. -/
theorem f32Negative_signed (neg : Bool) (low : Nat) (h : low < 2^31) : f32Negative (f32Signed neg low) = neg := by
  simp only [f32Negative, f32Signed, BitVec.msb_eq_decide, BitVec.toNat_ofNat]
  cases neg <;> simp <;> omega

/-- The last bit of an assembled pattern. -/
theorem getLsbD_zero_signed (neg : Bool) (low : Nat) (_ : low < 2^31) :
    (f32Signed neg low).getLsbD 0 = decide (low % 2 = 1) := by
  simp only [f32Signed, BitVec.getLsbD, BitVec.toNat_ofNat, Nat.testBit_zero]
  cases neg <;> simp <;> omega

/-- The rounded quotient is within half a unit of the exact one, and is even where it is exactly half a unit away. -/
theorem roundTiesEven_spec (n sh : Nat) : let q := roundTiesEven n sh
    2 * (q * 2^sh) ≤ 2 * n + 2^sh ∧ 2 * n ≤ 2 * (q * 2^sh) + 2^sh ∧
    (2 * (q * 2^sh) = 2 * n + 2^sh → q % 2 = 0) ∧ (2 * n = 2 * (q * 2^sh) + 2^sh → q % 2 = 0) := by
  have hp : 0 < 2^sh := Nat.two_pow_pos sh
  have hd := Nat.div_add_mod n (2^sh)
  have hm := Nat.mod_lt n hp
  have hc : 2^sh * (n / 2^sh) = n / 2^sh * 2^sh := Nat.mul_comm _ _
  simp only [roundTiesEven]
  split
  · rw [Nat.add_mul]; refine ⟨?_, ?_, ?_, ?_⟩ <;> intros <;> omega
  · split
    · rw [Nat.add_mul]
      have hq : n / 2^sh % 2 = 0 ∨ n / 2^sh % 2 = 1 := by omega
      rcases hq with h | h <;> rw [h] <;> refine ⟨?_, ?_, ?_, ?_⟩ <;> intros <;> omega
    · refine ⟨?_, ?_, ?_, ?_⟩ <;> intros <;> omega

/-- Where `f32Round` cuts: either nothing is lost to the width, or the significand has its 24 bits. -/
theorem f32Round_shape (n p : Nat) : let sh := max p (n.log2 - 23); let q := roundTiesEven n sh
    (sh = p ∧ q ≤ 2^24 ∧ n < 2^24 * 2^sh) ∨
      (p < sh ∧ 2^23 ≤ q ∧ q ≤ 2^24 ∧ 2^23 * 2^sh ≤ n ∧ n < 2^24 * 2^sh) := by
  intro sh q
  have hp : 0 < 2^sh := Nat.two_pow_pos sh
  obtain ⟨r1, r2, -, -⟩ := roundTiesEven_spec n sh
  change 2 * (q * 2^sh) ≤ 2 * n + 2^sh at r1
  change 2 * n ≤ 2 * (q * 2^sh) + 2^sh at r2
  have up : n < 2^24 * 2^sh := by
    have : n < 2^(n.log2+1) := Nat.lt_log2_self
    have h2 : 2^(n.log2+1) ≤ 2^(24+sh) := Nat.pow_le_pow_right (by norm_num) (by simp only [sh]; omega)
    rw [Nat.pow_add 2 24 sh] at h2; omega
  have hq : q ≤ 2^24 := by
    by_contra h
    have : (2^24+1) * 2^sh ≤ q * 2^sh := Nat.mul_le_mul_right _ (by omega)
    rw [Nat.add_mul] at this; omega
  by_cases hs : sh = p
  · exact .inl ⟨hs, hq, up⟩
  · have hps : p < sh := by simp only [sh] at hs ⊢; omega
    have hn : n ≠ 0 := by rintro rfl; simp [sh] at hps
    have lo : 2^23 * 2^sh ≤ n := by
      have := Nat.log2_self_le hn
      have h3 : 23 + sh = n.log2 := by simp only [sh] at hps ⊢; omega
      rw [← Nat.pow_add, h3]; exact this
    have hq2 : 2^23 ≤ q := by
      by_contra h
      have : (q + 1) * 2^sh ≤ 2^23 * 2^sh := Nat.mul_le_mul_right _ (by omega)
      rw [Nat.add_mul] at this; omega
    exact .inr ⟨hps, hq2, hq, lo, up⟩

/-- A pattern whose exponent is not 255 is neither a NaN nor an infinity. -/
theorem f32_finite (a : Word) (h : f32Exponent a ≠ 255) : f32IsNaN a = false ∧ f32IsInf a = false := by
  simp [f32IsNaN, f32IsInf, h]

/-- `radd` of finite operands. -/
theorem radd_finite (a b : Word) (ha : f32Exponent a ≠ 255) (hb : f32Exponent b ≠ 255) :
    radd a b = if f32Scaled a + f32Scaled b = 0 then f32Signed (f32Negative a && f32Negative b) 0
      else f32Round (decide (f32Scaled a + f32Scaled b < 0)) (f32Scaled a + f32Scaled b).natAbs 0 := by
  obtain ⟨a1, a2⟩ := f32_finite a ha
  obtain ⟨b1, b2⟩ := f32_finite b hb
  show f32Add a b = _
  unfold f32Add
  simp only [a1, a2, b1, b2, Bool.or_self, Bool.false_eq_true, if_false]

/-- `rmul` of finite operands. -/
theorem rmul_finite (a b : Word) (ha : f32Exponent a ≠ 255) (hb : f32Exponent b ≠ 255) :
    rmul a b = f32Round (f32Negative a != f32Negative b) (f32Magnitude a * f32Magnitude b) 149 := by
  obtain ⟨a1, a2⟩ := f32_finite a ha
  obtain ⟨b1, b2⟩ := f32_finite b hb
  show f32Mul a b = _
  unfold f32Mul
  simp only [a1, a2, b1, b2, Bool.or_self, Bool.false_eq_true, if_false]

end Sys2Proof.Machine
end

