-- ==== Sys2Proof/Laws/State.lean ====
section
/-! SUPPORT. One lemma per field of `State` per named update of it, so that no proof unfolds an update. -/

namespace Sys2Proof.Machine

variable {α : Type} {p : Params α}

/-! ### `dropTable` -/

@[simp] theorem dropTable_phase (s : State.Of p) : s.dropTable.phase = s.phase := rfl
@[simp] theorem dropTable_boundCb (s : State.Of p) : s.dropTable.boundCb = s.boundCb := rfl
@[simp] theorem dropTable_boundBias (s : State.Of p) : s.dropTable.boundBias = s.boundBias := rfl
@[simp] theorem dropTable_boundIdx (s : State.Of p) : s.dropTable.boundIdx = s.boundIdx := rfl
@[simp] theorem dropTable_lut (s : State.Of p) : s.dropTable.lut = LutTag.empty := rfl
@[simp] theorem dropTable_err (s : State.Of p) : s.dropTable.err = s.err := rfl
@[simp] theorem dropTable_errInfo (s : State.Of p) : s.dropTable.errInfo = s.errInfo := rfl
@[simp] theorem dropTable_errCmd (s : State.Of p) : s.dropTable.errCmd = s.errCmd := rfl
@[simp] theorem dropTable_cfg (s : State.Of p) : s.dropTable.cfg = s.cfg := rfl
@[simp] theorem dropTable_derived (s : State.Of p) : s.dropTable.derived = s.derived := rfl
@[simp] theorem dropTable_cbmem (s : State.Of p) : s.dropTable.cbmem = s.cbmem := rfl
@[simp] theorem dropTable_biasmem (s : State.Of p) : s.dropTable.biasmem = s.biasmem := rfl
@[simp] theorem dropTable_idxmem (s : State.Of p) : s.dropTable.idxmem = s.idxmem := rfl
@[simp] theorem dropTable_inmem (s : State.Of p) : s.dropTable.inmem = s.inmem := rfl
@[simp] theorem dropTable_outmem (s : State.Of p) : s.dropTable.outmem = s.outmem := rfl
@[simp] theorem dropTable_decmem (s : State.Of p) : s.dropTable.decmem = s.decmem := rfl
@[simp] theorem dropTable_lutmem (s : State.Of p) : s.dropTable.lutmem = [] := rfl
@[simp] theorem dropTable_pending (s : State.Of p) : s.dropTable.pending = s.pending := rfl
@[simp] theorem dropTable_reply (s : State.Of p) : s.dropTable.reply = s.reply := rfl

/-! ### `loadTable` -/

@[simp] theorem loadTable_phase (s : State.Of p) (tag : LutTag) (l : List α) : (s.loadTable tag l).phase = s.phase := rfl
@[simp] theorem loadTable_boundCb (s : State.Of p) (tag : LutTag) (l : List α) : (s.loadTable tag l).boundCb = s.boundCb := rfl
@[simp] theorem loadTable_boundBias (s : State.Of p) (tag : LutTag) (l : List α) : (s.loadTable tag l).boundBias = s.boundBias := rfl
@[simp] theorem loadTable_boundIdx (s : State.Of p) (tag : LutTag) (l : List α) : (s.loadTable tag l).boundIdx = s.boundIdx := rfl
@[simp] theorem loadTable_lut (s : State.Of p) (tag : LutTag) (l : List α) : (s.loadTable tag l).lut = tag := rfl
@[simp] theorem loadTable_err (s : State.Of p) (tag : LutTag) (l : List α) : (s.loadTable tag l).err = s.err := rfl
@[simp] theorem loadTable_errInfo (s : State.Of p) (tag : LutTag) (l : List α) : (s.loadTable tag l).errInfo = s.errInfo := rfl
@[simp] theorem loadTable_errCmd (s : State.Of p) (tag : LutTag) (l : List α) : (s.loadTable tag l).errCmd = s.errCmd := rfl
@[simp] theorem loadTable_cfg (s : State.Of p) (tag : LutTag) (l : List α) : (s.loadTable tag l).cfg = s.cfg := rfl
@[simp] theorem loadTable_derived (s : State.Of p) (tag : LutTag) (l : List α) : (s.loadTable tag l).derived = s.derived := rfl
@[simp] theorem loadTable_cbmem (s : State.Of p) (tag : LutTag) (l : List α) : (s.loadTable tag l).cbmem = s.cbmem := rfl
@[simp] theorem loadTable_biasmem (s : State.Of p) (tag : LutTag) (l : List α) : (s.loadTable tag l).biasmem = s.biasmem := rfl
@[simp] theorem loadTable_idxmem (s : State.Of p) (tag : LutTag) (l : List α) : (s.loadTable tag l).idxmem = s.idxmem := rfl
@[simp] theorem loadTable_inmem (s : State.Of p) (tag : LutTag) (l : List α) : (s.loadTable tag l).inmem = s.inmem := rfl
@[simp] theorem loadTable_outmem (s : State.Of p) (tag : LutTag) (l : List α) : (s.loadTable tag l).outmem = s.outmem := rfl
@[simp] theorem loadTable_decmem (s : State.Of p) (tag : LutTag) (l : List α) : (s.loadTable tag l).decmem = s.decmem := rfl
@[simp] theorem loadTable_lutmem (s : State.Of p) (tag : LutTag) (l : List α) : (s.loadTable tag l).lutmem = Memory.ofList 0 l := rfl
@[simp] theorem loadTable_pending (s : State.Of p) (tag : LutTag) (l : List α) : (s.loadTable tag l).pending = s.pending := rfl
@[simp] theorem loadTable_reply (s : State.Of p) (tag : LutTag) (l : List α) : (s.loadTable tag l).reply = s.reply := rfl

/-! ### `leaveReady` -/

@[simp] theorem leaveReady_phase (s : State.Of p) (f : Phase) : (s.leaveReady f).phase = f := rfl
@[simp] theorem leaveReady_boundCb (s : State.Of p) (f : Phase) : (s.leaveReady f).boundCb = s.boundCb := rfl
@[simp] theorem leaveReady_boundBias (s : State.Of p) (f : Phase) : (s.leaveReady f).boundBias = s.boundBias := rfl
@[simp] theorem leaveReady_boundIdx (s : State.Of p) (f : Phase) : (s.leaveReady f).boundIdx = s.boundIdx := rfl
@[simp] theorem leaveReady_lut (s : State.Of p) (f : Phase) : (s.leaveReady f).lut = LutTag.empty := rfl
@[simp] theorem leaveReady_err (s : State.Of p) (f : Phase) : (s.leaveReady f).err = s.err := rfl
@[simp] theorem leaveReady_errInfo (s : State.Of p) (f : Phase) : (s.leaveReady f).errInfo = s.errInfo := rfl
@[simp] theorem leaveReady_errCmd (s : State.Of p) (f : Phase) : (s.leaveReady f).errCmd = s.errCmd := rfl
@[simp] theorem leaveReady_cfg (s : State.Of p) (f : Phase) : (s.leaveReady f).cfg = s.cfg := rfl
@[simp] theorem leaveReady_derived (s : State.Of p) (f : Phase) : (s.leaveReady f).derived = Derived.zero := rfl
@[simp] theorem leaveReady_cbmem (s : State.Of p) (f : Phase) : (s.leaveReady f).cbmem = s.cbmem := rfl
@[simp] theorem leaveReady_biasmem (s : State.Of p) (f : Phase) : (s.leaveReady f).biasmem = s.biasmem := rfl
@[simp] theorem leaveReady_idxmem (s : State.Of p) (f : Phase) : (s.leaveReady f).idxmem = s.idxmem := rfl
@[simp] theorem leaveReady_inmem (s : State.Of p) (f : Phase) : (s.leaveReady f).inmem = s.inmem := rfl
@[simp] theorem leaveReady_outmem (s : State.Of p) (f : Phase) : (s.leaveReady f).outmem = s.outmem := rfl
@[simp] theorem leaveReady_decmem (s : State.Of p) (f : Phase) : (s.leaveReady f).decmem = [] := rfl
@[simp] theorem leaveReady_lutmem (s : State.Of p) (f : Phase) : (s.leaveReady f).lutmem = [] := rfl
@[simp] theorem leaveReady_pending (s : State.Of p) (f : Phase) : (s.leaveReady f).pending = s.pending := rfl
@[simp] theorem leaveReady_reply (s : State.Of p) (f : Phase) : (s.leaveReady f).reply = s.reply := rfl

/-! ### `raiseFault` -/

@[simp] theorem raiseFault_phase (e : ErrCode) (info : Nat) (c : Word) (s : State.Of p) : (raiseFault e info c s).phase = .fault := rfl
@[simp] theorem raiseFault_boundCb (e : ErrCode) (info : Nat) (c : Word) (s : State.Of p) : (raiseFault e info c s).boundCb = s.boundCb := rfl
@[simp] theorem raiseFault_boundBias (e : ErrCode) (info : Nat) (c : Word) (s : State.Of p) : (raiseFault e info c s).boundBias = s.boundBias := rfl
@[simp] theorem raiseFault_boundIdx (e : ErrCode) (info : Nat) (c : Word) (s : State.Of p) : (raiseFault e info c s).boundIdx = s.boundIdx := rfl
@[simp] theorem raiseFault_lut (e : ErrCode) (info : Nat) (c : Word) (s : State.Of p) : (raiseFault e info c s).lut = s.lut := rfl
@[simp] theorem raiseFault_err (e : ErrCode) (info : Nat) (c : Word) (s : State.Of p) : (raiseFault e info c s).err = e.code := rfl
@[simp] theorem raiseFault_errInfo (e : ErrCode) (info : Nat) (c : Word) (s : State.Of p) : (raiseFault e info c s).errInfo = sat info := rfl
@[simp] theorem raiseFault_errCmd (e : ErrCode) (info : Nat) (c : Word) (s : State.Of p) : (raiseFault e info c s).errCmd = c := rfl
@[simp] theorem raiseFault_cfg (e : ErrCode) (info : Nat) (c : Word) (s : State.Of p) : (raiseFault e info c s).cfg = s.cfg := rfl
@[simp] theorem raiseFault_derived (e : ErrCode) (info : Nat) (c : Word) (s : State.Of p) : (raiseFault e info c s).derived = s.derived := rfl
@[simp] theorem raiseFault_cbmem (e : ErrCode) (info : Nat) (c : Word) (s : State.Of p) : (raiseFault e info c s).cbmem = s.cbmem := rfl
@[simp] theorem raiseFault_biasmem (e : ErrCode) (info : Nat) (c : Word) (s : State.Of p) : (raiseFault e info c s).biasmem = s.biasmem := rfl
@[simp] theorem raiseFault_idxmem (e : ErrCode) (info : Nat) (c : Word) (s : State.Of p) : (raiseFault e info c s).idxmem = s.idxmem := rfl
@[simp] theorem raiseFault_inmem (e : ErrCode) (info : Nat) (c : Word) (s : State.Of p) : (raiseFault e info c s).inmem = s.inmem := rfl
@[simp] theorem raiseFault_outmem (e : ErrCode) (info : Nat) (c : Word) (s : State.Of p) : (raiseFault e info c s).outmem = s.outmem := rfl
@[simp] theorem raiseFault_decmem (e : ErrCode) (info : Nat) (c : Word) (s : State.Of p) : (raiseFault e info c s).decmem = s.decmem := rfl
@[simp] theorem raiseFault_lutmem (e : ErrCode) (info : Nat) (c : Word) (s : State.Of p) : (raiseFault e info c s).lutmem = s.lutmem := rfl
@[simp] theorem raiseFault_pending (e : ErrCode) (info : Nat) (c : Word) (s : State.Of p) : (raiseFault e info c s).pending = s.pending := rfl
@[simp] theorem raiseFault_reply (e : ErrCode) (info : Nat) (c : Word) (s : State.Of p) : (raiseFault e info c s).reply = s.reply := rfl

/-! ### `resetRegisters` -/

@[simp] theorem resetRegisters_phase (s : State.Of p) : (resetRegisters s).phase = .uninit := rfl
@[simp] theorem resetRegisters_boundCb (s : State.Of p) : (resetRegisters s).boundCb = false := rfl
@[simp] theorem resetRegisters_boundBias (s : State.Of p) : (resetRegisters s).boundBias = false := rfl
@[simp] theorem resetRegisters_boundIdx (s : State.Of p) : (resetRegisters s).boundIdx = false := rfl
@[simp] theorem resetRegisters_lut (s : State.Of p) : (resetRegisters s).lut = LutTag.empty := rfl
@[simp] theorem resetRegisters_err (s : State.Of p) : (resetRegisters s).err = 0 := rfl
@[simp] theorem resetRegisters_errInfo (s : State.Of p) : (resetRegisters s).errInfo = 0 := rfl
@[simp] theorem resetRegisters_errCmd (s : State.Of p) : (resetRegisters s).errCmd = 0 := rfl
@[simp] theorem resetRegisters_cfg (s : State.Of p) : (resetRegisters s).cfg = Cfg.zero := rfl
@[simp] theorem resetRegisters_derived (s : State.Of p) : (resetRegisters s).derived = Derived.zero := rfl
@[simp] theorem resetRegisters_cbmem (s : State.Of p) : (resetRegisters s).cbmem = s.cbmem := rfl
@[simp] theorem resetRegisters_biasmem (s : State.Of p) : (resetRegisters s).biasmem = s.biasmem := rfl
@[simp] theorem resetRegisters_idxmem (s : State.Of p) : (resetRegisters s).idxmem = s.idxmem := rfl
@[simp] theorem resetRegisters_inmem (s : State.Of p) : (resetRegisters s).inmem = s.inmem := rfl
@[simp] theorem resetRegisters_outmem (s : State.Of p) : (resetRegisters s).outmem = s.outmem := rfl
@[simp] theorem resetRegisters_decmem (s : State.Of p) : (resetRegisters s).decmem = [] := rfl
@[simp] theorem resetRegisters_lutmem (s : State.Of p) : (resetRegisters s).lutmem = [] := rfl
@[simp] theorem resetRegisters_pending (s : State.Of p) : (resetRegisters s).pending = s.pending := rfl
@[simp] theorem resetRegisters_reply (s : State.Of p) : (resetRegisters s).reply = s.reply := rfl

/-! ### `gather` -/

@[simp] theorem gather_phase (s : State.Of p) (cs : List (Nat × α)) : (s.gather cs).phase = s.phase := rfl
@[simp] theorem gather_boundCb (s : State.Of p) (cs : List (Nat × α)) : (s.gather cs).boundCb = s.boundCb := rfl
@[simp] theorem gather_boundBias (s : State.Of p) (cs : List (Nat × α)) : (s.gather cs).boundBias = s.boundBias := rfl
@[simp] theorem gather_boundIdx (s : State.Of p) (cs : List (Nat × α)) : (s.gather cs).boundIdx = s.boundIdx := rfl
@[simp] theorem gather_lut (s : State.Of p) (cs : List (Nat × α)) : (s.gather cs).lut = LutTag.empty := rfl
@[simp] theorem gather_err (s : State.Of p) (cs : List (Nat × α)) : (s.gather cs).err = s.err := rfl
@[simp] theorem gather_errInfo (s : State.Of p) (cs : List (Nat × α)) : (s.gather cs).errInfo = s.errInfo := rfl
@[simp] theorem gather_errCmd (s : State.Of p) (cs : List (Nat × α)) : (s.gather cs).errCmd = s.errCmd := rfl
@[simp] theorem gather_cfg (s : State.Of p) (cs : List (Nat × α)) : (s.gather cs).cfg = s.cfg := rfl
@[simp] theorem gather_derived (s : State.Of p) (cs : List (Nat × α)) : (s.gather cs).derived = s.derived := rfl
@[simp] theorem gather_cbmem (s : State.Of p) (cs : List (Nat × α)) : (s.gather cs).cbmem = s.cbmem := rfl
@[simp] theorem gather_biasmem (s : State.Of p) (cs : List (Nat × α)) : (s.gather cs).biasmem = s.biasmem := rfl
@[simp] theorem gather_idxmem (s : State.Of p) (cs : List (Nat × α)) : (s.gather cs).idxmem = s.idxmem := rfl
@[simp] theorem gather_inmem (s : State.Of p) (cs : List (Nat × α)) : (s.gather cs).inmem = s.inmem := rfl
@[simp] theorem gather_outmem (s : State.Of p) (cs : List (Nat × α)) : (s.gather cs).outmem = Memory.scatterAdd p cs s.outmem := rfl
@[simp] theorem gather_decmem (s : State.Of p) (cs : List (Nat × α)) : (s.gather cs).decmem = s.decmem := rfl
@[simp] theorem gather_lutmem (s : State.Of p) (cs : List (Nat × α)) : (s.gather cs).lutmem = [] := rfl
@[simp] theorem gather_pending (s : State.Of p) (cs : List (Nat × α)) : (s.gather cs).pending = s.pending := rfl
@[simp] theorem gather_reply (s : State.Of p) (cs : List (Nat × α)) : (s.gather cs).reply = s.reply := rfl

/-! ### `zeroEffect` -/

@[simp] theorem zeroEffect_phase (s : State.Of p) : (zeroEffect s).phase = s.phase := rfl
@[simp] theorem zeroEffect_boundCb (s : State.Of p) : (zeroEffect s).boundCb = s.boundCb := rfl
@[simp] theorem zeroEffect_boundBias (s : State.Of p) : (zeroEffect s).boundBias = s.boundBias := rfl
@[simp] theorem zeroEffect_boundIdx (s : State.Of p) : (zeroEffect s).boundIdx = s.boundIdx := rfl
@[simp] theorem zeroEffect_lut (s : State.Of p) : (zeroEffect s).lut = s.lut := rfl
@[simp] theorem zeroEffect_err (s : State.Of p) : (zeroEffect s).err = s.err := rfl
@[simp] theorem zeroEffect_errInfo (s : State.Of p) : (zeroEffect s).errInfo = s.errInfo := rfl
@[simp] theorem zeroEffect_errCmd (s : State.Of p) : (zeroEffect s).errCmd = s.errCmd := rfl
@[simp] theorem zeroEffect_cfg (s : State.Of p) : (zeroEffect s).cfg = s.cfg := rfl
@[simp] theorem zeroEffect_derived (s : State.Of p) : (zeroEffect s).derived = s.derived := rfl
@[simp] theorem zeroEffect_cbmem (s : State.Of p) : (zeroEffect s).cbmem = s.cbmem := rfl
@[simp] theorem zeroEffect_biasmem (s : State.Of p) : (zeroEffect s).biasmem = s.biasmem := rfl
@[simp] theorem zeroEffect_idxmem (s : State.Of p) : (zeroEffect s).idxmem = s.idxmem := rfl
@[simp] theorem zeroEffect_inmem (s : State.Of p) : (zeroEffect s).inmem = s.inmem := rfl
@[simp] theorem zeroEffect_outmem (s : State.Of p) : (zeroEffect s).outmem = Memory.fill s.derived.outExtent.toNat p.real.rzero s.outmem := rfl
@[simp] theorem zeroEffect_decmem (s : State.Of p) : (zeroEffect s).decmem = s.decmem := rfl
@[simp] theorem zeroEffect_lutmem (s : State.Of p) : (zeroEffect s).lutmem = s.lutmem := rfl
@[simp] theorem zeroEffect_pending (s : State.Of p) : (zeroEffect s).pending = s.pending := rfl
@[simp] theorem zeroEffect_reply (s : State.Of p) : (zeroEffect s).reply = s.reply := rfl

/-! ### `biasEffect` -/

@[simp] theorem biasEffect_phase (s : State.Of p) : (biasEffect s).phase = s.phase := rfl
@[simp] theorem biasEffect_boundCb (s : State.Of p) : (biasEffect s).boundCb = s.boundCb := rfl
@[simp] theorem biasEffect_boundBias (s : State.Of p) : (biasEffect s).boundBias = s.boundBias := rfl
@[simp] theorem biasEffect_boundIdx (s : State.Of p) : (biasEffect s).boundIdx = s.boundIdx := rfl
@[simp] theorem biasEffect_lut (s : State.Of p) : (biasEffect s).lut = s.lut := rfl
@[simp] theorem biasEffect_err (s : State.Of p) : (biasEffect s).err = s.err := rfl
@[simp] theorem biasEffect_errInfo (s : State.Of p) : (biasEffect s).errInfo = s.errInfo := rfl
@[simp] theorem biasEffect_errCmd (s : State.Of p) : (biasEffect s).errCmd = s.errCmd := rfl
@[simp] theorem biasEffect_cfg (s : State.Of p) : (biasEffect s).cfg = s.cfg := rfl
@[simp] theorem biasEffect_derived (s : State.Of p) : (biasEffect s).derived = s.derived := rfl
@[simp] theorem biasEffect_cbmem (s : State.Of p) : (biasEffect s).cbmem = s.cbmem := rfl
@[simp] theorem biasEffect_biasmem (s : State.Of p) : (biasEffect s).biasmem = s.biasmem := rfl
@[simp] theorem biasEffect_idxmem (s : State.Of p) : (biasEffect s).idxmem = s.idxmem := rfl
@[simp] theorem biasEffect_inmem (s : State.Of p) : (biasEffect s).inmem = s.inmem := rfl
@[simp] theorem biasEffect_outmem (s : State.Of p) : (biasEffect s).outmem = Memory.scatterAdd p s.biasContributions s.outmem := rfl
@[simp] theorem biasEffect_decmem (s : State.Of p) : (biasEffect s).decmem = s.decmem := rfl
@[simp] theorem biasEffect_lutmem (s : State.Of p) : (biasEffect s).lutmem = s.lutmem := rfl
@[simp] theorem biasEffect_pending (s : State.Of p) : (biasEffect s).pending = s.pending := rfl
@[simp] theorem biasEffect_reply (s : State.Of p) : (biasEffect s).reply = s.reply := rfl

/-! ### `rebuild` -/

@[simp] theorem rebuild_phase (s : State.Of p) : (rebuild s).phase = .ready := rfl
@[simp] theorem rebuild_boundCb (s : State.Of p) : (rebuild s).boundCb = s.boundCb := rfl
@[simp] theorem rebuild_boundBias (s : State.Of p) : (rebuild s).boundBias = s.boundBias := rfl
@[simp] theorem rebuild_boundIdx (s : State.Of p) : (rebuild s).boundIdx = s.boundIdx := rfl
@[simp] theorem rebuild_lut (s : State.Of p) : (rebuild s).lut = LutTag.empty := rfl
@[simp] theorem rebuild_err (s : State.Of p) : (rebuild s).err = s.err := rfl
@[simp] theorem rebuild_errInfo (s : State.Of p) : (rebuild s).errInfo = s.errInfo := rfl
@[simp] theorem rebuild_errCmd (s : State.Of p) : (rebuild s).errCmd = s.errCmd := rfl
@[simp] theorem rebuild_cfg (s : State.Of p) : (rebuild s).cfg = s.cfg := rfl
@[simp] theorem rebuild_derived (s : State.Of p) : (rebuild s).derived = s.cfg.geometry.registers := rfl
@[simp] theorem rebuild_cbmem (s : State.Of p) : (rebuild s).cbmem = s.cbmem := rfl
@[simp] theorem rebuild_biasmem (s : State.Of p) : (rebuild s).biasmem = s.biasmem := rfl
@[simp] theorem rebuild_idxmem (s : State.Of p) : (rebuild s).idxmem = s.idxmem := rfl
@[simp] theorem rebuild_inmem (s : State.Of p) : (rebuild s).inmem = s.inmem := rfl
@[simp] theorem rebuild_outmem (s : State.Of p) : (rebuild s).outmem = s.outmem := rfl
@[simp] theorem rebuild_decmem (s : State.Of p) : (rebuild s).decmem = Memory.ofList 0 s.decodedIndices := rfl
@[simp] theorem rebuild_lutmem (s : State.Of p) : (rebuild s).lutmem = [] := rfl
@[simp] theorem rebuild_pending (s : State.Of p) : (rebuild s).pending = s.pending := rfl
@[simp] theorem rebuild_reply (s : State.Of p) : (rebuild s).reply = s.reply := rfl

/-! ### `accept` -/

@[simp] theorem accept_phase (s : State.Of p) : s.accept.phase = s.phase := rfl
@[simp] theorem accept_boundCb (s : State.Of p) : s.accept.boundCb = s.boundCb := rfl
@[simp] theorem accept_boundBias (s : State.Of p) : s.accept.boundBias = s.boundBias := rfl
@[simp] theorem accept_boundIdx (s : State.Of p) : s.accept.boundIdx = s.boundIdx := rfl
@[simp] theorem accept_lut (s : State.Of p) : s.accept.lut = s.lut := rfl
@[simp] theorem accept_err (s : State.Of p) : s.accept.err = s.err := rfl
@[simp] theorem accept_errInfo (s : State.Of p) : s.accept.errInfo = s.errInfo := rfl
@[simp] theorem accept_errCmd (s : State.Of p) : s.accept.errCmd = s.errCmd := rfl
@[simp] theorem accept_cfg (s : State.Of p) : s.accept.cfg = s.cfg := rfl
@[simp] theorem accept_derived (s : State.Of p) : s.accept.derived = s.derived := rfl
@[simp] theorem accept_cbmem (s : State.Of p) : s.accept.cbmem = s.cbmem := rfl
@[simp] theorem accept_biasmem (s : State.Of p) : s.accept.biasmem = s.biasmem := rfl
@[simp] theorem accept_idxmem (s : State.Of p) : s.accept.idxmem = s.idxmem := rfl
@[simp] theorem accept_inmem (s : State.Of p) : s.accept.inmem = s.inmem := rfl
@[simp] theorem accept_outmem (s : State.Of p) : s.accept.outmem = s.outmem := rfl
@[simp] theorem accept_decmem (s : State.Of p) : s.accept.decmem = s.decmem := rfl
@[simp] theorem accept_lutmem (s : State.Of p) : s.accept.lutmem = s.lutmem := rfl
@[simp] theorem accept_pending (s : State.Of p) : s.accept.pending = s.pending := rfl
@[simp] theorem accept_reply (s : State.Of p) : s.accept.reply = .accepted := rfl

/-! ### `answer` -/

@[simp] theorem answer_phase (s : State.Of p) (v : α) : (s.answer v).phase = s.phase := rfl
@[simp] theorem answer_boundCb (s : State.Of p) (v : α) : (s.answer v).boundCb = s.boundCb := rfl
@[simp] theorem answer_boundBias (s : State.Of p) (v : α) : (s.answer v).boundBias = s.boundBias := rfl
@[simp] theorem answer_boundIdx (s : State.Of p) (v : α) : (s.answer v).boundIdx = s.boundIdx := rfl
@[simp] theorem answer_lut (s : State.Of p) (v : α) : (s.answer v).lut = s.lut := rfl
@[simp] theorem answer_err (s : State.Of p) (v : α) : (s.answer v).err = s.err := rfl
@[simp] theorem answer_errInfo (s : State.Of p) (v : α) : (s.answer v).errInfo = s.errInfo := rfl
@[simp] theorem answer_errCmd (s : State.Of p) (v : α) : (s.answer v).errCmd = s.errCmd := rfl
@[simp] theorem answer_cfg (s : State.Of p) (v : α) : (s.answer v).cfg = s.cfg := rfl
@[simp] theorem answer_derived (s : State.Of p) (v : α) : (s.answer v).derived = s.derived := rfl
@[simp] theorem answer_cbmem (s : State.Of p) (v : α) : (s.answer v).cbmem = s.cbmem := rfl
@[simp] theorem answer_biasmem (s : State.Of p) (v : α) : (s.answer v).biasmem = s.biasmem := rfl
@[simp] theorem answer_idxmem (s : State.Of p) (v : α) : (s.answer v).idxmem = s.idxmem := rfl
@[simp] theorem answer_inmem (s : State.Of p) (v : α) : (s.answer v).inmem = s.inmem := rfl
@[simp] theorem answer_outmem (s : State.Of p) (v : α) : (s.answer v).outmem = s.outmem := rfl
@[simp] theorem answer_decmem (s : State.Of p) (v : α) : (s.answer v).decmem = s.decmem := rfl
@[simp] theorem answer_lutmem (s : State.Of p) (v : α) : (s.answer v).lutmem = s.lutmem := rfl
@[simp] theorem answer_pending (s : State.Of p) (v : α) : (s.answer v).pending = s.pending := rfl
@[simp] theorem answer_reply (s : State.Of p) (v : α) : (s.answer v).reply = .value v := rfl

/-! ### `refuse` -/

@[simp] theorem refuse_phase (s : State.Of p) : s.refuse.phase = s.phase := rfl
@[simp] theorem refuse_boundCb (s : State.Of p) : s.refuse.boundCb = s.boundCb := rfl
@[simp] theorem refuse_boundBias (s : State.Of p) : s.refuse.boundBias = s.boundBias := rfl
@[simp] theorem refuse_boundIdx (s : State.Of p) : s.refuse.boundIdx = s.boundIdx := rfl
@[simp] theorem refuse_lut (s : State.Of p) : s.refuse.lut = s.lut := rfl
@[simp] theorem refuse_err (s : State.Of p) : s.refuse.err = s.err := rfl
@[simp] theorem refuse_errInfo (s : State.Of p) : s.refuse.errInfo = s.errInfo := rfl
@[simp] theorem refuse_errCmd (s : State.Of p) : s.refuse.errCmd = s.errCmd := rfl
@[simp] theorem refuse_cfg (s : State.Of p) : s.refuse.cfg = s.cfg := rfl
@[simp] theorem refuse_derived (s : State.Of p) : s.refuse.derived = s.derived := rfl
@[simp] theorem refuse_cbmem (s : State.Of p) : s.refuse.cbmem = s.cbmem := rfl
@[simp] theorem refuse_biasmem (s : State.Of p) : s.refuse.biasmem = s.biasmem := rfl
@[simp] theorem refuse_idxmem (s : State.Of p) : s.refuse.idxmem = s.idxmem := rfl
@[simp] theorem refuse_inmem (s : State.Of p) : s.refuse.inmem = s.inmem := rfl
@[simp] theorem refuse_outmem (s : State.Of p) : s.refuse.outmem = s.outmem := rfl
@[simp] theorem refuse_decmem (s : State.Of p) : s.refuse.decmem = s.decmem := rfl
@[simp] theorem refuse_lutmem (s : State.Of p) : s.refuse.lutmem = s.lutmem := rfl
@[simp] theorem refuse_pending (s : State.Of p) : s.refuse.pending = s.pending := rfl
@[simp] theorem refuse_reply (s : State.Of p) : s.refuse.reply = .refused := rfl

/-! ### `setBound`: the flag of the slot, and nothing else -/

@[simp] theorem setBound_phase (s : State.Of p) (sl : Slot) (b : Bool) : (s.setBound sl b).phase = s.phase := by
  cases sl <;> rfl
@[simp] theorem setBound_lut (s : State.Of p) (sl : Slot) (b : Bool) : (s.setBound sl b).lut = s.lut := by
  cases sl <;> rfl
@[simp] theorem setBound_err (s : State.Of p) (sl : Slot) (b : Bool) : (s.setBound sl b).err = s.err := by
  cases sl <;> rfl
@[simp] theorem setBound_errInfo (s : State.Of p) (sl : Slot) (b : Bool) : (s.setBound sl b).errInfo = s.errInfo := by
  cases sl <;> rfl
@[simp] theorem setBound_errCmd (s : State.Of p) (sl : Slot) (b : Bool) : (s.setBound sl b).errCmd = s.errCmd := by
  cases sl <;> rfl
@[simp] theorem setBound_cfg (s : State.Of p) (sl : Slot) (b : Bool) : (s.setBound sl b).cfg = s.cfg := by
  cases sl <;> rfl
@[simp] theorem setBound_derived (s : State.Of p) (sl : Slot) (b : Bool) : (s.setBound sl b).derived = s.derived := by
  cases sl <;> rfl
@[simp] theorem setBound_cbmem (s : State.Of p) (sl : Slot) (b : Bool) : (s.setBound sl b).cbmem = s.cbmem := by
  cases sl <;> rfl
@[simp] theorem setBound_biasmem (s : State.Of p) (sl : Slot) (b : Bool) : (s.setBound sl b).biasmem = s.biasmem := by
  cases sl <;> rfl
@[simp] theorem setBound_idxmem (s : State.Of p) (sl : Slot) (b : Bool) : (s.setBound sl b).idxmem = s.idxmem := by
  cases sl <;> rfl
@[simp] theorem setBound_inmem (s : State.Of p) (sl : Slot) (b : Bool) : (s.setBound sl b).inmem = s.inmem := by
  cases sl <;> rfl
@[simp] theorem setBound_outmem (s : State.Of p) (sl : Slot) (b : Bool) : (s.setBound sl b).outmem = s.outmem := by
  cases sl <;> rfl
@[simp] theorem setBound_decmem (s : State.Of p) (sl : Slot) (b : Bool) : (s.setBound sl b).decmem = s.decmem := by
  cases sl <;> rfl
@[simp] theorem setBound_lutmem (s : State.Of p) (sl : Slot) (b : Bool) : (s.setBound sl b).lutmem = s.lutmem := by
  cases sl <;> rfl
@[simp] theorem setBound_pending (s : State.Of p) (sl : Slot) (b : Bool) : (s.setBound sl b).pending = s.pending := by
  cases sl <;> rfl
@[simp] theorem setBound_reply (s : State.Of p) (sl : Slot) (b : Bool) : (s.setBound sl b).reply = s.reply := by
  cases sl <;> rfl

@[simp] theorem setBound_bound (s : State.Of p) (sl sl' : Slot) (b : Bool) :
    (s.setBound sl b).bound sl' = if sl = sl' then b else s.bound sl' := by
  cases sl <;> cases sl' <;> rfl

/-! ### `withMem`: the memory of the space, and nothing else -/

@[simp] theorem withMem_phase (s : State.Of p) (sp : Space) (m : Memory α) : (s.withMem sp m).phase = s.phase := by
  cases sp <;> rfl
@[simp] theorem withMem_boundCb (s : State.Of p) (sp : Space) (m : Memory α) : (s.withMem sp m).boundCb = s.boundCb := by
  cases sp <;> rfl
@[simp] theorem withMem_boundBias (s : State.Of p) (sp : Space) (m : Memory α) : (s.withMem sp m).boundBias = s.boundBias := by
  cases sp <;> rfl
@[simp] theorem withMem_boundIdx (s : State.Of p) (sp : Space) (m : Memory α) : (s.withMem sp m).boundIdx = s.boundIdx := by
  cases sp <;> rfl
@[simp] theorem withMem_lut (s : State.Of p) (sp : Space) (m : Memory α) : (s.withMem sp m).lut = s.lut := by
  cases sp <;> rfl
@[simp] theorem withMem_err (s : State.Of p) (sp : Space) (m : Memory α) : (s.withMem sp m).err = s.err := by
  cases sp <;> rfl
@[simp] theorem withMem_errInfo (s : State.Of p) (sp : Space) (m : Memory α) : (s.withMem sp m).errInfo = s.errInfo := by
  cases sp <;> rfl
@[simp] theorem withMem_errCmd (s : State.Of p) (sp : Space) (m : Memory α) : (s.withMem sp m).errCmd = s.errCmd := by
  cases sp <;> rfl
@[simp] theorem withMem_cfg (s : State.Of p) (sp : Space) (m : Memory α) : (s.withMem sp m).cfg = s.cfg := by
  cases sp <;> rfl
@[simp] theorem withMem_derived (s : State.Of p) (sp : Space) (m : Memory α) : (s.withMem sp m).derived = s.derived := by
  cases sp <;> rfl
@[simp] theorem withMem_pending (s : State.Of p) (sp : Space) (m : Memory α) : (s.withMem sp m).pending = s.pending := by
  cases sp <;> rfl
@[simp] theorem withMem_reply (s : State.Of p) (sp : Space) (m : Memory α) : (s.withMem sp m).reply = s.reply := by
  cases sp <;> rfl

@[simp] theorem withMem_mem (s : State.Of p) (sp sp' : Space) (m : Memory α) :
    (s.withMem sp m).mem sp' = if sp = sp' then m else s.mem sp' := by
  cases sp <;> cases sp' <;> rfl

end Sys2Proof.Machine
end

