-- ==== Sys2Proof/Laws/Command.lean ====
section
/-! SUPPORT. What the shape every command has can do (spec/30_encoding.md R98), said once. -/

namespace Sys2Proof.Machine

variable {α : Type} {p : Params α}

@[simp] theorem firstFailing_nil : firstFailing [] = none := rfl

@[simp] theorem firstFailing_cons (c : Check) (cs : List Check) :
    firstFailing (c :: cs) = if c.fails then some c else firstFailing cs := rfl

/-- No check fails exactly when each one passes. -/
theorem firstFailing_eq_none {cs : List Check} : firstFailing cs = none ↔ ∀ c ∈ cs, c.fails = false := by
  induction cs with
  | nil => simp
  | cons c cs ih => by_cases h : c.fails <;> simp [h, ih]

theorem firstFailing_append (as bs : List Check) :
    firstFailing (as ++ bs) = (firstFailing as).or (firstFailing bs) := by
  induction as with
  | nil => simp
  | cons c cs ih => by_cases h : c.fails <;> simp [h, ih]

/-- The check that decides a fault is one of the list and fails. -/
theorem firstFailing_some {cs : List Check} {k : Check} (h : firstFailing cs = some k) :
    k ∈ cs ∧ k.fails = true := by
  induction cs with
  | nil => simp at h
  | cons c cs ih =>
    by_cases hc : c.fails
    · simp [hc] at h; subst h; simp [hc]
    · simp [hc] at h; exact ⟨List.mem_cons_of_mem _ (ih h).1, (ih h).2⟩

/-- Everything a command can do: nothing in `FAULT`, its first failing check's fault, or its effect. -/
theorem runCommand_cases (c : Word) (checks : List Check) (effect : State.Of p → State.Of p) (s : State.Of p) :
    (s.phase = .fault ∧ runCommand c checks effect s = .next s) ∨
    (s.phase ≠ .fault ∧ ∃ k, firstFailing checks = some k ∧
      runCommand c checks effect s = .next (raiseFault k.err k.info c s)) ∨
    (s.phase ≠ .fault ∧ firstFailing checks = none ∧ runCommand c checks effect s = .next (effect s)) := by
  unfold runCommand
  by_cases h : s.phase = .fault
  · exact .inl ⟨h, by simp [h]⟩
  · refine .inr ?_
    cases hk : firstFailing checks with
    | none => exact .inr ⟨h, rfl, by simp [h]⟩
    | some k => exact .inl ⟨h, k, rfl, by simp [h]⟩

theorem runCommand_inFault {c : Word} {checks : List Check} {effect : State.Of p → State.Of p} {s : State.Of p}
    (h : s.phase = .fault) : runCommand c checks effect s = .next s := by simp [runCommand, h]

theorem runCommand_fails {c : Word} {checks : List Check} {effect : State.Of p → State.Of p} {s : State.Of p} {k : Check}
    (h : s.phase ≠ .fault) (hk : firstFailing checks = some k) :
    runCommand c checks effect s = .next (raiseFault k.err k.info c s) := by simp [runCommand, h, hk]

theorem runCommand_passes {c : Word} {checks : List Check} {effect : State.Of p → State.Of p} {s : State.Of p}
    (h : s.phase ≠ .fault) (hk : firstFailing checks = none) :
    runCommand c checks effect s = .next (effect s) := by simp [runCommand, h, hk]

end Sys2Proof.Machine
end

