-- ==== Sys2Proof/Laws/Decoder.lean ====
section
/-! SUPPORT. What the decoder's two functions can answer (spec/41_decoder_reshape.md R130, R132), said once. -/

namespace Sys2Proof.Machine

/-- A code fails exactly where the buffer does not have its first word, or, where it straddles, the next one. -/
theorem decodeCode_error {words : List Nat} {b W i q : Nat} : decodeCode words b W i = .error q ↔
    words.length ≤ q ∧
      (q = i * b / W ∨ i * b / W < words.length ∧ W < i * b % W + b ∧ q = i * b / W + 1) := by
  simp only [decodeCode]
  split
  · rename_i hn
    have h0 := List.getElem?_eq_none_iff.1 hn
    constructor
    · intro h
      cases h
      exact ⟨h0, .inl rfl⟩
    · rintro ⟨_, rfl | ⟨_, _, _⟩⟩
      · rfl
      · omega
  · rename_i hw
    have h0 := (List.getElem?_eq_some_iff.1 hw).1
    split
    · exact ⟨nofun, fun ⟨_, h⟩ => by omega⟩
    · split
      · rename_i hn
        have h1 := List.getElem?_eq_none_iff.1 hn
        constructor
        · intro h
          cases h
          exact ⟨h1, .inr ⟨h0, by omega, rfl⟩⟩
        · rintro ⟨_, rfl | ⟨_, _, rfl⟩⟩
          · omega
          · rfl
      · rename_i hn
        have h1 := (List.getElem?_eq_some_iff.1 hn).1
        exact ⟨nofun, fun ⟨_, h⟩ => by omega⟩

/-- A code that lies in one word. -/
theorem decodeCode_one {words : List Nat} {b W i word : Nat} (hw : words[i * b / W]? = some word)
    (h : i * b % W + b ≤ W) :
    decodeCode words b W i = .ok ((word >>> (W - b - i * b % W)) &&& (2 ^ b - 1)) := by
  have h0 : (0 : Int) ≤ ((W : Int) - b) - (i * b % W : Nat) := by omega
  have h1 : (((W : Int) - b) - (i * b % W : Nat)).toNat = W - b - i * b % W := by omega
  simp only [decodeCode, hw, if_pos h0, h1]

/-- A code that runs over the end of its first word. -/
theorem decodeCode_two {words : List Nat} {b W i word nextWord : Nat} (hw : words[i * b / W]? = some word)
    (hn : words[i * b / W + 1]? = some nextWord) (h : W < i * b % W + b) :
    decodeCode words b W i = .ok (((word <<< (i * b % W + b - W)) |||
      (nextWord >>> (W - (i * b % W + b - W)))) &&& (2 ^ b - 1)) := by
  have h0 : ¬ (0 : Int) ≤ ((W : Int) - b) - (i * b % W : Nat) := by omega
  have h1 : (-(((W : Int) - b) - (i * b % W : Nat))).toNat = i * b % W + b - W := by omega
  have h2 : ((W : Int) + (((W : Int) - b) - (i * b % W : Nat))).toNat = W - (i * b % W + b - W) := by omega
  simp only [decodeCode, hw, hn, if_neg h0, h1, h2]

/-- A decode that succeeds gives each code at its own place. -/
theorem decodeFrom_ok {words : List Nat} {b W n i : Nat} {codes : List Nat}
    (h : decodeFrom words b W i n = .ok codes) :
    codes.length = n ∧ ∀ k x, codes[k]? = some x → decodeCode words b W (i + k) = .ok x := by
  induction n generalizing i codes with
  | zero => simp [decodeFrom] at h; subst h; simp
  | succ n ih =>
    simp only [decodeFrom] at h
    split at h
    · cases h
    · rename_i x hx
      split at h
      · cases h
      · rename_i xs hxs
        cases h
        have hr := ih hxs
        refine ⟨by simp [hr.1], fun k y hk => ?_⟩
        cases k with
        | zero => simp at hk; subst hk; exact hx
        | succ k =>
          have := hr.2 k y (by simpa using hk)
          rwa [show i + 1 + k = i + (k + 1) by omega] at this

/-- A decode fails exactly as the first of its codes that fails. -/
theorem decodeFrom_error {words : List Nat} {b W n i q : Nat} : decodeFrom words b W i n = .error q ↔
    ∃ k, k < n ∧ decodeCode words b W (i + k) = .error q ∧
      ∀ k', k' < k → ∃ x, decodeCode words b W (i + k') = .ok x := by
  induction n generalizing i with
  | zero => simp [decodeFrom]
  | succ n ih =>
    simp only [decodeFrom]
    split
    · rename_i q' hq
      constructor
      · intro h
        cases h
        exact ⟨0, by omega, hq, fun k' hk' => by omega⟩
      · rintro ⟨k, _, he, hk⟩
        cases k with
        | zero => simpa [hq] using he
        | succ k =>
          obtain ⟨x, hx⟩ := hk 0 (by omega)
          simp [hq] at hx
    · rename_i x hx
      have hr := ih (i := i + 1)
      simp only [show ∀ k, i + 1 + k = i + (k + 1) by omega] at hr
      have hs : (∃ k, k < n + 1 ∧ decodeCode words b W (i + k) = .error q ∧
          ∀ k', k' < k → ∃ x, decodeCode words b W (i + k') = .ok x) ↔
          decodeFrom words b W (i + 1) n = .error q := by
        rw [hr]
        constructor
        · rintro ⟨k, hn, he, hk⟩
          cases k with
          | zero => simp [hx] at he
          | succ k => exact ⟨k, by omega, he, fun k' hk' => hk (k' + 1) (by omega)⟩
        · rintro ⟨k, hn, he, hk⟩
          refine ⟨k + 1, by omega, he, fun k' hk' => ?_⟩
          cases k' with
          | zero => exact ⟨x, hx⟩
          | succ k' => exact hk k' (by omega)
      rw [hs]
      split
      · rename_i hq
        rw [hq]
      · rename_i hq
        simp [hq]

/-- A decode none of whose codes fails succeeds. -/
theorem decodeFrom_total {words : List Nat} {b W n i : Nat}
    (h : ∀ k, k < n → ∃ x, decodeCode words b W (i + k) = .ok x) :
    ∃ codes, decodeFrom words b W i n = .ok codes := by
  rcases hd : decodeFrom words b W i n with q | codes
  · obtain ⟨k, hk, he, _⟩ := decodeFrom_error.1 hd
    obtain ⟨x, hx⟩ := h k hk
    rw [hx] at he
    cases he
  · exact ⟨codes, rfl⟩

/-- Bits pushed in one after the other from the right. -/
theorem foldl_bits_lt (f : Nat → Bool) (l : List Nat) (acc : Nat) :
    l.foldl (fun a t => 2 * a + (f t).toNat) acc < (acc + 1) * 2 ^ l.length := by
  induction l generalizing acc with
  | nil => simp
  | cons t l ih =>
    have h2 := Bool.toNat_le (f t)
    have h3 : (2 * acc + (f t).toNat + 1) * 2 ^ l.length ≤ (acc + 1) * 2 ^ (l.length + 1) := by
      rw [pow_succ]; nlinarith [Nat.two_pow_pos l.length]
    exact lt_of_lt_of_le (ih (2 * acc + (f t).toNat)) h3

/-- A packed word has `W` bits at most. -/
theorem packedWord_lt (codes : List Nat) (b W q : Nat) : packedWord codes b W q < 2 ^ W := by
  simpa [packedWord] using foldl_bits_lt (fun t => packedBit codes b (q * W + t)) (List.range W) 0

end Sys2Proof.Machine
end

