-- ==== Sys2Proof/Laws/Encoding.lean ====
section
/-! SUPPORT. The fields of a command word as numbers (spec/30_encoding.md R90, R96). -/

namespace Sys2Proof

/-- The assembled word as a number: `OPC * 2^24 + R * 2^12 + J`. -/
theorem toNat_assemble (opc : BitVec 8) (r j : BitVec 12) :
    (assemble opc r j).toNat = opc.toNat * 2 ^ 24 + r.toNat * 2 ^ 12 + j.toNat := by
  have hr := r.isLt
  have hj := j.isLt
  show (opc ++ r ++ j).toNat = _
  rw [BitVec.toNat_append, BitVec.toNat_append, ← Nat.shiftLeft_add_eq_or_of_lt hr,
    ← Nat.shiftLeft_add_eq_or_of_lt hj]
  simp only [Nat.shiftLeft_eq]
  omega

theorem toNat_opcField (c : Word) : (opcField c).toNat = c.toNat / 2 ^ 24 % 2 ^ 8 := by
  simp [opcField, BitVec.extractLsb'_toNat, Nat.shiftRight_eq_div_pow]

theorem toNat_rField (c : Word) : (rField c).toNat = c.toNat / 2 ^ 12 % 2 ^ 12 := by
  simp [rField, BitVec.extractLsb'_toNat, Nat.shiftRight_eq_div_pow]

theorem toNat_jField (c : Word) : (jField c).toNat = c.toNat % 2 ^ 12 := by
  simp [jField, BitVec.extractLsb'_toNat]

theorem toNat_slotField (c : Word) : (slotField c).toNat = c.toNat % 2 ^ 2 := by
  simp [slotField, BitVec.extractLsb'_toNat]

theorem toNat_slotPadField (c : Word) : (slotPadField c).toNat = c.toNat / 2 ^ 2 % 2 ^ 10 := by
  simp [slotPadField, BitVec.extractLsb'_toNat, Nat.shiftRight_eq_div_pow]

@[simp] theorem opcField_assemble (opc : BitVec 8) (r j : BitVec 12) : opcField (assemble opc r j) = opc := by
  have := opc.isLt
  have := r.isLt
  have := j.isLt
  apply BitVec.eq_of_toNat_eq
  rw [toNat_opcField, toNat_assemble]
  omega

@[simp] theorem rField_assemble (opc : BitVec 8) (r j : BitVec 12) : rField (assemble opc r j) = r := by
  have := r.isLt
  have := j.isLt
  apply BitVec.eq_of_toNat_eq
  rw [toNat_rField, toNat_assemble]
  omega

@[simp] theorem jField_assemble (opc : BitVec 8) (r j : BitVec 12) : jField (assemble opc r j) = j := by
  have := j.isLt
  apply BitVec.eq_of_toNat_eq
  rw [toNat_jField, toNat_assemble]
  omega

/-- A word is its three fields, as a number. -/
theorem toNat_fields (c : Word) :
    c.toNat = (opcField c).toNat * 2 ^ 24 + (rField c).toNat * 2 ^ 12 + (jField c).toNat := by
  have := c.isLt
  rw [toNat_opcField, toNat_rField, toNat_jField]
  omega

/-- A word is its three fields, put together. -/
theorem assemble_fields (c : Word) : assemble (opcField c) (rField c) (jField c) = c := by
  apply BitVec.eq_of_toNat_eq
  rw [toNat_assemble, ← toNat_fields]

/-- A word under the mask of its bits from `k` up. -/
theorem toNat_and_highMask (c : Word) (k : Nat) (m : Word) (hm : m.toNat = 2 ^ 32 - 2 ^ k) (hk : k ≤ 32) :
    (c &&& m).toNat = c.toNat / 2 ^ k * 2 ^ k := by
  have : m = BitVec.allOnes 32 <<< k := by
    apply BitVec.eq_of_toNat_eq
    rw [hm]
    interval_cases k <;> decide
  rw [this]
  apply Nat.eq_of_testBit_eq
  intro i
  rw [← Nat.shiftRight_eq_div_pow, ← Nat.shiftLeft_eq, Nat.testBit_shiftLeft, Nat.testBit_shiftRight,
    ← BitVec.getLsbD, BitVec.getLsbD_and, BitVec.getLsbD_shiftLeft, BitVec.getLsbD_allOnes]
  by_cases h : i < 32
  · by_cases h2 : i < k
    · simp [h, h2]
    · simp [h, h2, show k ≤ i by omega, show k + (i - k) = i by omega, show i - k < 32 by omega, BitVec.getLsbD]
  · have : c.getLsbD i = false := BitVec.getLsbD_of_ge c i (by omega)
    by_cases h2 : k ≤ i
    · simp [h, show k + (i - k) = i by omega]
      intro _
      simpa [BitVec.getLsbD] using this
    · omega

end Sys2Proof
end

