-- ==== Sys2Proof/Laws/Geometry.lean ====
section
/-! SUPPORT. What a configuration that passes every check of `RESHAPE` is (spec/41_decoder_reshape.md R136), said once,
and that its derived quantities fit their registers (spec/10_state.md R41). -/

namespace Sys2Proof.Machine

variable {α : Type} {p : Params α}

theorem isPow2_iff (x : Nat) : isPow2 x = true ↔ ∃ e, x = 2 ^ e := by
  constructor
  · intro h
    exact ⟨x.log2, by simpa [isPow2] using (by simpa [isPow2] using h : ¬x = 0 ∧ x = 2 ^ x.log2).2⟩
  · rintro ⟨e, rfl⟩
    simp [isPow2, Nat.log2_two_pow]

/-- Every condition of R136, as it stands when none of them raises a fault. -/
structure Passed {α : Type} (p : Params α) (c : Cfg) : Prop where
  wbits : c.wbits.toNat = 8 ∨ c.wbits.toNat = 16 ∨ c.wbits.toNat = 32
  k : c.k.toNat = 2 ^ c.codeBits
  bits_pos : 1 ≤ c.codeBits
  bits_le : c.codeBits ≤ c.wbits.toNat
  bits_max : c.codeBits ≤ p.maxBits
  m : 0 < c.m.toNat
  numOut : 0 < c.numOut.toNat
  batch : 0 < c.batch.toNat
  inWidth : 0 < c.inWidth.toNat
  width : c.inWidth.toNat = c.slices * c.m.toNat
  total : c.totalWidth.toNat = c.inWidth.toNat
  window : c.spatial = true → 0 < c.inH.toNat ∧ 0 < c.inW.toNat ∧ 0 < c.kernelH.toNat ∧ 0 < c.kernelW.toNat ∧
    0 < c.strideH.toNat ∧ 0 < c.strideW.toNat ∧ 0 < c.dilH.toNat ∧ 0 < c.dilW.toNat ∧ 0 ≤ c.slackH ∧ 0 ≤ c.slackW
  cbLen : c.cbLen.toNat = c.totalWidth.toNat * c.k.toNat
  biasLen : c.biasLen = c.numOut
  idxLen : c.idxLen.toNat = c.geometry.reqWords
  cbCap : c.cbLen.toNat ≤ p.capacity .cbmem
  biasCap : c.biasLen.toNat ≤ p.capacity .biasmem
  idxCap : c.idxLen.toNat ≤ p.capacity .idxmem
  inCap : c.geometry.inExtent ≤ p.capacity .inmem
  outCap : c.geometry.outExtent ≤ p.capacity .outmem
  decCap : c.geometry.count ≤ p.capacity .decmem
  lutCap : c.geometry.lutExtent ≤ p.capacity .lutmem
  slicesCap : c.slices ≤ 4096
  batchCap : c.batch.toNat ≤ 4096

theorem word_pos {w : Word} (h : ¬ w = 0) : 0 < w.toNat := by
  rcases Nat.eq_zero_or_pos w.toNat with h0 | h0
  · exact absurd (BitVec.eq_of_toNat_eq h0) h
  · exact h0

theorem passed_of_checks {c : Cfg} (h : firstFailing (reshapeChecks p c) = none) : Passed p c := by
  simp only [reshapeChecks, firstFailing_append, Option.or_eq_none_iff] at h
  simp only [firstFailing_eq_none] at h
  obtain ⟨⟨⟨h1, h2⟩, h3⟩, h4⟩ := h
  simp [widthChecks, isPow2_iff] at h1
  simp [lengthChecks] at h3
  simp [capacityChecks] at h4
  obtain ⟨a1, a2, a3, a4, a5, a6, a7, a8, a9, a10, a11⟩ := h1
  obtain ⟨b1, b2, b3, b4⟩ := h3
  obtain ⟨d1, d2, d3, d4, d5, d6, d7, d8, d9⟩ := h4
  obtain ⟨e, he⟩ := a2
  have hk : c.codeBits = e := by simp [Cfg.codeBits, he, Nat.log2_two_pow]
  have hm := word_pos a6
  refine
    { wbits := ?_, k := by rw [hk, he], bits_pos := ?_, bits_le := a4, bits_max := a5, m := hm, numOut := word_pos a7,
      batch := word_pos a8, inWidth := word_pos a9, width := ?_, total := by rw [a10], window := ?_, cbLen := b1,
      biasLen := b2, idxLen := by omega, cbCap := d1, biasCap := d2, idxCap := d3, inCap := d4, outCap := d5,
      decCap := d6, lutCap := d7, slicesCap := d8, batchCap := d9 }
  · by_cases h8 : c.wbits = 8#32
    · simp [h8]
    · by_cases h16 : c.wbits = 16#32
      · simp [h16]
      · simp [a1 h8 h16]
  · rcases Nat.eq_zero_or_pos e with h0 | h0
    · exact absurd (BitVec.eq_of_toNat_eq (by simp [he, h0])) a3
    · omega
  · exact (Nat.div_mul_cancel (Nat.dvd_of_mod_eq_zero a11)).symm
  · intro hs
    simp [hs, windowChecks] at h2
    obtain ⟨w1, w2, w3, w4, w5, w6, w7, w8, w9, w10⟩ := h2
    exact ⟨word_pos w1, word_pos w2, word_pos w3, word_pos w4, word_pos w5, word_pos w6, word_pos w7, word_pos w8,
      w9, w10⟩

theorem slices_pos {c : Cfg} (h : Passed p c) : 0 < c.slices := by
  rcases Nat.eq_zero_or_pos c.slices with h0 | h0
  · have := h.width; have := h.inWidth; rw [h0] at *; omega
  · exact h0

/-- R41: `OUT_H` and `OUT_W` are at most `OUT_EXTENT`. -/
theorem outSize_le_outExtent {c : Cfg} (h : Passed p c) :
    c.outHeight ≤ c.geometry.outExtent ∧ c.outWidth ≤ c.geometry.outExtent := by
  have hb := h.batch
  have hn := h.numOut
  by_cases hs : c.spatial = true
  · have h1 : 0 < c.outHeight := by simp [Cfg.outHeight, hs, outSize]
    have h2 : 0 < c.outWidth := by simp [Cfg.outWidth, hs, outSize]
    simp only [Cfg.geometry, hs, if_true]
    have h3 : 1 ≤ c.batch.toNat * c.numOut.toNat := Nat.mul_pos hb hn
    constructor
    · have h5 : c.outHeight ≤ c.batch.toNat * c.numOut.toNat * c.outHeight := Nat.le_mul_of_pos_left _ h3
      exact h5.trans (Nat.le_mul_of_pos_right _ h2)
    · exact Nat.le_mul_of_pos_left _ (Nat.mul_pos h3 h1)
  · simp [Cfg.outHeight, Cfg.outWidth, hs]

/-- R41: every derived quantity of a configuration that passes R136 fits in its register. -/
theorem registers_toNat (hp : p.Valid) {c : Cfg} (h : Passed p c) :
    c.geometry.registers.bits.toNat = c.codeBits ∧
    c.geometry.registers.numSlices.toNat = c.slices ∧
    c.geometry.registers.count.toNat = c.codeCount ∧
    c.geometry.registers.outH.toNat = c.outHeight ∧
    c.geometry.registers.outW.toNat = c.outWidth ∧
    c.geometry.registers.inExtent.toNat = c.geometry.inExtent ∧
    c.geometry.registers.outExtent.toNat = c.geometry.outExtent ∧
    c.geometry.registers.reqWords.toNat = c.geometry.reqWords ∧
    c.geometry.registers.lutExtent.toNat = c.geometry.lutExtent := by
  have fits : ∀ sp n, n ≤ p.capacity sp → (BitVec.ofNat 32 n).toNat = n := fun sp n hn => by
    have := hp.capacity_fits sp
    rw [BitVec.toNat_ofNat, Nat.mod_eq_of_lt (by omega)]
  have small : ∀ n, n ≤ 4096 → (BitVec.ofNat 32 n).toNat = n := fun n hn => by
    rw [BitVec.toNat_ofNat, Nat.mod_eq_of_lt (by omega)]
  have h1 := h.bits_max.trans hp.maxBits_range.2
  have h2 := outSize_le_outExtent h
  exact ⟨small _ (h1.trans (by norm_num)), small _ h.slicesCap, fits _ _ h.decCap, fits _ _ (h2.1.trans h.outCap),
    fits _ _ (h2.2.trans h.outCap), fits _ _ h.inCap, fits _ _ h.outCap, fits _ _ (h.idxLen ▸ h.idxCap),
    fits _ _ h.lutCap⟩

end Sys2Proof.Machine
end

