-- ==== Sys2Proof/Laws/Memory.lean ====
section
/-! SUPPORT. What the operations on a memory do: read after write, the canonical form, a loaded table, a fill, and
the scatter-adds element by element. -/

namespace Sys2Proof.Machine

variable {α : Type} {p : Params α}

/-! ### Read after write -/

theorem Memory.fetch_write (m : Memory α) (i e : Nat) (v : α) :
    Memory.fetch (Memory.write m i v) e = if i = e then some v else Memory.fetch m e := by
  induction m with
  | nil => simp [Memory.write, Memory.fetch]
  | cons c rest ih =>
    obtain ⟨a, w⟩ := c
    simp only [Memory.write]
    by_cases h1 : i < a
    · simp [h1, Memory.fetch]
    · by_cases h2 : i = a
      · subst h2
        simp only [lt_irrefl, if_false, if_true, Memory.fetch]
        by_cases h3 : i = e <;> simp [h3]
      · simp only [h1, h2, if_false, Memory.fetch, ih]
        by_cases h3 : a = e
        · subst h3; simp [h2]
        · simp [h3]

@[simp] theorem Memory.read_write (sp : Space) (m : Memory α) (i e : Nat) (v : α) :
    Memory.read p sp (Memory.write m i v) e = if i = e then v else Memory.read p sp m e := by
  unfold Memory.read
  rw [Memory.fetch_write]
  by_cases h : i = e <;> simp [h]

/-! ### Which elements are listed -/

theorem Memory.key_write {m : Memory α} {i : Nat} {v : α} {c : Nat × α} (h : c ∈ Memory.write m i v) :
    c.1 = i ∨ c ∈ m := by
  induction m with
  | nil => simp [Memory.write] at h; simp [h]
  | cons d rest ih =>
    obtain ⟨a, w⟩ := d
    simp only [Memory.write] at h
    split at h
    · rcases List.mem_cons.1 h with rfl | h
      · exact .inl rfl
      · exact .inr h
    · split at h
      · rcases List.mem_cons.1 h with rfl | h
        · exact .inl rfl
        · exact .inr (List.mem_cons_of_mem _ h)
      · rcases List.mem_cons.1 h with rfl | h
        · exact .inr List.mem_cons_self
        · exact (ih h).imp id (List.mem_cons_of_mem _)

/-! ### The canonical form -/

theorem Memory.wf_write {m : Memory α} (h : m.wf) (i : Nat) (v : α) : (Memory.write m i v).wf := by
  induction m with
  | nil => simp [Memory.write, Memory.wf]
  | cons d rest ih =>
    obtain ⟨a, w⟩ := d
    have hr := List.pairwise_cons.1 h
    simp only [Memory.write]
    split
    · rename_i hlt
      refine List.pairwise_cons.2 ⟨fun c hc => ?_, h⟩
      rcases List.mem_cons.1 hc with rfl | hc
      · exact hlt
      · exact lt_trans hlt (hr.1 c hc)
    · split
      · rename_i heq
        exact List.pairwise_cons.2 ⟨fun c hc => heq ▸ hr.1 c hc, hr.2⟩
      · rename_i h1 h2
        refine List.pairwise_cons.2 ⟨fun c hc => ?_, ih hr.2⟩
        rcases Memory.key_write hc with h3 | h3
        · simp only [h3]; omega
        · exact hr.1 c h3

theorem Memory.key_ofList {a : Nat} {l : List α} {c : Nat × α} (h : c ∈ Memory.ofList a l) :
    a ≤ c.1 ∧ c.1 < a + l.length := by
  induction l generalizing a with
  | nil => simp [Memory.ofList] at h
  | cons v vs ih =>
    simp only [Memory.ofList, List.mem_cons] at h
    rcases h with rfl | h
    · simp
    · have := ih h
      simp only [List.length_cons]; omega

theorem Memory.wf_ofList (a : Nat) (l : List α) : (Memory.ofList a l).wf := by
  induction l generalizing a with
  | nil => simp [Memory.ofList, Memory.wf]
  | cons v vs ih =>
    refine List.pairwise_cons.2 ⟨fun c hc => ?_, ih (a + 1)⟩
    have := (Memory.key_ofList hc).1
    simp only; omega

theorem Memory.wf_scatterAdd {m : Memory α} (h : m.wf) (cs : List (Nat × α)) :
    (Memory.scatterAdd p cs m).wf := by
  induction cs generalizing m with
  | nil => exact h
  | cons c cs ih => exact ih (Memory.wf_write h _ _)

theorem Memory.wf_fill {m : Memory α} (h : m.wf) (n : Nat) (v : α) : (Memory.fill n v m).wf := by
  unfold Memory.fill
  generalize List.range n = l
  induction l generalizing m with
  | nil => exact h
  | cons e es ih => exact ih (Memory.wf_write h _ _)

/-! ### A loaded table -/

theorem Memory.fetch_ofList (a : Nat) (l : List α) (i : Nat) :
    Memory.fetch (Memory.ofList a l) i = if a ≤ i then l[i - a]? else none := by
  induction l generalizing a with
  | nil => simp [Memory.ofList, Memory.fetch]
  | cons v vs ih =>
    simp only [Memory.ofList, Memory.fetch, ih]
    by_cases h1 : a = i
    · subst h1; simp
    · by_cases h2 : a ≤ i
      · have h3 : a + 1 ≤ i := by omega
        have h4 : i - a = (i - (a + 1)) + 1 := by omega
        simp [h1, h2, h3, h4]
      · simp [h1, h2, show ¬ a + 1 ≤ i by omega]

/-- An element of a table reads as the table's entry. -/
theorem Memory.read_ofList (sp : Space) (l : List α) (i : Nat) (v : α) (h : l[i]? = some v) :
    Memory.read p sp (Memory.ofList 0 l) i = v := by
  simp [Memory.read, Memory.fetch_ofList, h]

/-! ### Fill and scatter-add, element by element -/

theorem Memory.read_fill (sp : Space) (n : Nat) (v : α) (m : Memory α) (e : Nat) :
    Memory.read p sp (Memory.fill n v m) e = if e < n then v else Memory.read p sp m e := by
  induction n with
  | zero => simp [Memory.fill]
  | succ n ih =>
    have : Memory.fill (n + 1) v m = Memory.write (Memory.fill n v m) n v := by
      simp [Memory.fill, List.range_succ]
    rw [this, Memory.read_write, ih]
    by_cases h1 : n = e
    · subst h1; simp
    · simp only [h1, if_false]
      congr 1
      exact propext ⟨fun h => by omega, fun h => by omega⟩

/-- What a list of contributions leaves in an element: those to this element, added in their order. -/
theorem Memory.read_scatterAdd (cs : List (Nat × α)) (m : Memory α) (e : Nat) :
    Memory.read p .outmem (Memory.scatterAdd p cs m) e
      = ((cs.filter fun c => c.1 = e).map Prod.snd).foldl p.real.radd (Memory.read p .outmem m e) := by
  induction cs generalizing m with
  | nil => rfl
  | cons c cs ih =>
    have : Memory.scatterAdd p (c :: cs) m
        = Memory.scatterAdd p cs (Memory.write m c.1 (p.real.radd (Memory.read p .outmem m c.1) c.2)) := rfl
    rw [this, ih, Memory.read_write]
    by_cases h : c.1 = e
    · subst h; simp
    · simp [h]

/-- The elements a list of contributions lists: those listed before and those contributed to. -/
theorem Memory.key_scatterAdd {cs : List (Nat × α)} {m : Memory α} {c : Nat × α}
    (h : c ∈ Memory.scatterAdd p cs m) : (∃ d ∈ cs, c.1 = d.1) ∨ c ∈ m := by
  induction cs generalizing m with
  | nil => exact .inr h
  | cons d cs ih =>
    rcases ih (m := Memory.write m d.1 (p.real.radd (Memory.read p .outmem m d.1) d.2)) h with ⟨d', hd, he⟩ | h
    · exact .inl ⟨d', List.mem_cons_of_mem _ hd, he⟩
    · rcases Memory.key_write h with h | h
      · exact .inl ⟨d, List.mem_cons_self, h⟩
      · exact .inr h

theorem Memory.key_fill {n : Nat} {v : α} {m : Memory α} {c : Nat × α} (h : c ∈ Memory.fill n v m) :
    c.1 < n ∨ c ∈ m := by
  induction n with
  | zero => exact .inr (by simpa [Memory.fill] using h)
  | succ n ih =>
    have hw : Memory.fill (n + 1) v m = Memory.write (Memory.fill n v m) n v := by
      simp [Memory.fill, List.range_succ]
    rw [hw] at h
    rcases Memory.key_write h with h | h
    · exact .inl (by omega)
    · exact (ih h).imp (fun h => by omega) id

end Sys2Proof.Machine
end

