-- ==== Sys2Proof/Laws/Params.lean ====
section
/-! SUPPORT. The fields of the reference record, and what the default `HOST_MAP` names. -/

namespace Sys2Proof.Machine

@[simp] theorem reference_real : reference.real = binary32 := rfl
@[simp] theorem reference_radd (a b : Word) : reference.real.radd a b = radd a b := rfl
@[simp] theorem reference_rmul (a b : Word) : reference.real.rmul a b = rmul a b := rfl
@[simp] theorem reference_rzero : reference.real.rzero = rzero := rfl
@[simp] theorem reference_capacity : reference.capacity = Config.capacity := rfl
@[simp] theorem reference_maxBits : reference.maxBits = Config.maxBits := rfl
@[simp] theorem reference_hostMap : reference.hostMap = defaultHostMap := rfl
@[simp] theorem reference_ofWord (w : Word) : reference.ofWord w = w := rfl
@[simp] theorem reference_toWord (w : Word) : reference.toWord w = w := rfl

/-- The window of a space (spec/20_memory.md R64). -/
theorem windowSpace_inj {a b : Nat} {sp : Space} (ha : windowSpace a = some sp) (hb : windowSpace b = some sp) :
    a = b := by
  revert ha hb
  unfold windowSpace
  split <;> split <;> rintro ⟨⟩ ⟨⟩ <;> rfl

/-- What an accepted offset names, and that it names it alone: its window and its place inside it. -/
theorem defaultHostMap_some {a n : Nat} {place : Place} (h : defaultHostMap a n = some place) :
    n = 4 ∧ a % 2 ^ 24 % 4 = 0 ∧
      ((a / 2 ^ 24 = 0 ∧ place = .register (a % 2 ^ 24 / 4)) ∨
        ∃ sp, windowSpace (a / 2 ^ 24) = some sp ∧ place = .element sp (a % 2 ^ 24 / 4)) := by
  simp only [defaultHostMap] at h
  split at h
  · rename_i hn
    refine ⟨hn.1, hn.2, ?_⟩
    split at h
    · rename_i hw
      split at h <;> cases h
      exact .inl ⟨hw, rfl⟩
    · split at h
      · rename_i sp hsp
        split at h <;> cases h
        exact .inr ⟨sp, hsp, rfl⟩
      · cases h
  · cases h

end Sys2Proof.Machine
end

