-- ==== Sys2Proof/Laws/PerInstr.lean ====
section
/-! SUPPORT. Families of statements made once per instruction, as syntax. -/

namespace Sys2Proof.Laws

/-- The word of the instruction has the fixed bits of its row of the opcode map, and no bit outside them but its
operands (spec/30_encoding.md R93): `c & mask = match`. -/
def MatchesRow.Statement (i : Instr) : Prop := encode i &&& maskBits i = matchBits i

/-- A word assembled with opcode `opc`, under the mask of the opcode field. -/
theorem assemble_and_opcode (opc : BitVec 8) (r j : BitVec 12) :
    assemble opc r j &&& 0xFF000000#32 = assemble opc 0 0 := by
  have := r.isLt
  have := j.isLt
  apply BitVec.eq_of_toNat_eq
  rw [toNat_and_highMask _ 24 _ (by decide) (by decide), toNat_assemble, toNat_assemble]
  rw [show (0 : BitVec 12).toNat = 0 from rfl]
  omega

/-- A word assembled with `R = 0`, under the mask of the opcode and `R` fields. -/
theorem assemble_and_opcode_row (opc : BitVec 8) (j : BitVec 12) :
    assemble opc 0 j &&& 0xFFFFF000#32 = assemble opc 0 0 := by
  have := j.isLt
  apply BitVec.eq_of_toNat_eq
  rw [toNat_and_highMask _ 12 _ (by decide) (by decide), toNat_assemble, toNat_assemble]
  rw [show (0 : BitVec 12).toNat = 0 from rfl]
  omega

theorem MatchesRow.nop : MatchesRow.Statement .nop := rfl

theorem MatchesRow.reset : MatchesRow.Statement .reset := rfl

theorem MatchesRow.bind (slot : BitVec 2) : MatchesRow.Statement (.bind slot) := by
  revert slot
  unfold MatchesRow.Statement
  decide

theorem MatchesRow.reshape : MatchesRow.Statement .reshape := rfl

theorem MatchesRow.mulv (r j : BitVec 12) : MatchesRow.Statement (.mulv r j) := assemble_and_opcode _ r j

theorem MatchesRow.mulb (j : BitVec 12) : MatchesRow.Statement (.mulb j) := assemble_and_opcode_row _ j

theorem MatchesRow.muls (n j : BitVec 12) : MatchesRow.Statement (.muls n j) := assemble_and_opcode _ n j

theorem MatchesRow.zero : MatchesRow.Statement .zero := rfl

theorem MatchesRow.gacv (r j : BitVec 12) : MatchesRow.Statement (.gacv r j) := assemble_and_opcode _ r j

theorem MatchesRow.gacb (j : BitVec 12) : MatchesRow.Statement (.gacb j) := assemble_and_opcode_row _ j

theorem MatchesRow.gacs (n j : BitVec 12) : MatchesRow.Statement (.gacs n j) := assemble_and_opcode _ n j

theorem MatchesRow.bias : MatchesRow.Statement .bias := rfl

theorem MatchesRow.fwdl : MatchesRow.Statement .fwdl := rfl

theorem MatchesRow.fwds : MatchesRow.Statement .fwds := rfl

end Sys2Proof.Laws
end

