-- ==== Sys2Proof/Laws/Step.lean ====
section
/-! SUPPORT. What a command can do in `FAULT`, and everything a step can do, said once, for every parameter record. -/

namespace Sys2Proof.Machine

variable {α : Type} {p : Params α}

/-- `exec` is the commands of the block with the reference parameters. -/
theorem exec_eq_execOn (i : Instr) (s : State) : exec i s = execOn i s := by cases i <;> rfl

/-- `step` is the step of the block with the reference parameters. -/
theorem step_eq_stepOn (s : State) : step s = stepOn s := by
  rw [step, stepOn, show (exec : Instr → State → Result reference) = execOn from
    funext fun i => funext fun s => exec_eq_execOn i s]

@[simp] theorem translate_access (a : HostAccess α) : (Request.access a).translate p = some a := rfl

@[simp] theorem translate_bus (b : BusAccess α) : (Request.bus b).translate p = b.translate p := rfl

/-- R213: in `FAULT` every command but `RESET` is ignored. -/
theorem execOn_inFault {s : State.Of p} {i : Instr} (h : s.phase = .fault) (hi : i ≠ .reset) :
    execOn i s = .next s := by
  cases i
  case reset => exact absurd rfl hi
  all_goals
    simp only [execOn, execNop, execBind, execReshape, execMulv, execMulb, execMuls, execZero, execGacv,
      execGacb, execGacs, execBias, execFwdl, execFwds]
    exact runCommand_inFault h

/-- The checks of a command, in their order (`RESET` has none). -/
def commandChecks : Instr → State.Of p → List Check
  | .nop, _ => []
  | .reset, _ => []
  | .bind slot, s => bindChecks slot s
  | .reshape, s => reshapeCommandChecks s
  | .mulv r j, s => [readyCheck s, modeCheck s false, sliceCheck s j, rowCheck s r]
  | .mulb j, s => [readyCheck s, modeCheck s false, sliceCheck s j]
  | .muls n j, s => [readyCheck s, modeCheck s true, sliceCheck s j, rowCheck s n]
  | .zero, s => [readyCheck s]
  | .gacv r j, s => [readyCheck s, modeCheck s false, sliceCheck s j, rowCheck s r, tagCheck s .v j r]
  | .gacb j, s => [readyCheck s, modeCheck s false, sliceCheck s j, tagCheck s .b j 0]
  | .gacs n j, s => [readyCheck s, modeCheck s true, sliceCheck s j, rowCheck s n, tagCheck s .s j n]
  | .bias, s => [readyCheck s]
  | .fwdl, s => [readyCheck s, modeCheck s false]
  | .fwds, s => [readyCheck s, modeCheck s true]

/-- The effect of a command whose checks have passed. -/
def commandEffect : Instr → State.Of p → State.Of p
  | .nop => id
  | .reset => resetRegisters
  | .bind slot => bindEffect slot
  | .reshape => reshapeEffect
  | .mulv r j => mulvEffect r.toNat j.toNat
  | .mulb j => mulbEffect j.toNat
  | .muls n j => mulsEffect n.toNat j.toNat
  | .zero => zeroEffect
  | .gacv r j => gacvEffect r.toNat j.toNat
  | .gacb j => gacbEffect j.toNat
  | .gacs n j => gacsEffect n.toNat j.toNat
  | .bias => biasEffect
  | .fwdl => fwdlEffect
  | .fwds => fwdsEffect

theorem execOn_eq_runCommand {i : Instr} (hi : i ≠ .reset) (s : State.Of p) :
    execOn i s = runCommand (encode i) (commandChecks i s) (commandEffect i) s := by
  cases i <;> first | exact absurd rfl hi | rfl

/-- Everything a command can do. -/
theorem execOn_cases {i : Instr} {s t : State.Of p} (h : execOn i s = .next t) :
    (i = .reset ∧ t = resetRegisters s) ∨ (s.phase = .fault ∧ t = s) ∨
    (i ≠ .reset ∧ s.phase ≠ .fault ∧ ∃ k, firstFailing (commandChecks i s) = some k ∧
      t = raiseFault k.err k.info (encode i) s) ∨
    (i ≠ .reset ∧ s.phase ≠ .fault ∧ firstFailing (commandChecks i s) = none ∧ t = commandEffect i s) := by
  by_cases hi : i = .reset
  · subst hi
    simp only [execOn, execReset] at h
    cases h
    exact .inl ⟨rfl, rfl⟩
  · rw [execOn_eq_runCommand hi] at h
    rcases runCommand_cases (encode i) (commandChecks i s) (commandEffect i) s with
      ⟨h1, h2⟩ | ⟨h1, k, hk, h2⟩ | ⟨h1, hk, h2⟩ <;> rw [h2] at h <;> cases h
    · exact .inr (.inl ⟨h1, rfl⟩)
    · exact .inr (.inr (.inl ⟨hi, h1, k, hk, rfl⟩))
    · exact .inr (.inr (.inr ⟨hi, h1, hk, rfl⟩))

/-- A command with a `READY` check whose checks pass runs in `READY`. -/
theorem ready_of_checks {i : Instr} {s : State.Of p} (h : readyCheck s ∈ commandChecks i s)
    (hk : firstFailing (commandChecks i s) = none) : s.phase = .ready := by
  simpa [readyCheck, phaseCheck] using firstFailing_eq_none.1 hk _ h

/-! ### What the computing commands keep -/

/-- All but `OUTMEM` and the lookup cache is as it was. -/
def SameInputs (s t : State.Of p) : Prop := t = { s with outmem := t.outmem, lut := t.lut, lutmem := t.lutmem }

theorem SameInputs.refl (s : State.Of p) : SameInputs s s := rfl

theorem SameInputs.trans {s t u : State.Of p} (h : SameInputs s t) (g : SameInputs t u) : SameInputs s u := by
  unfold SameInputs at *
  rw [g, h]

theorem SameInputs.phase {s t : State.Of p} (h : SameInputs s t) : t.phase = s.phase := by rw [h]

theorem SameInputs.cfg {s t : State.Of p} (h : SameInputs s t) : t.cfg = s.cfg := by rw [h]

theorem SameInputs.derived {s t : State.Of p} (h : SameInputs s t) : t.derived = s.derived := by rw [h]

theorem SameInputs.mem {s t : State.Of p} (h : SameInputs s t) (sp : Space) (h1 : sp ≠ .outmem) (h2 : sp ≠ .lutmem) :
    t.mem sp = s.mem sp := by
  cases sp <;> first | exact absurd rfl h1 | exact absurd rfl h2 | (rw [h]; rfl)

theorem SameInputs.elem {s t : State.Of p} (h : SameInputs s t) (sp : Space) (h1 : sp ≠ .outmem) (h2 : sp ≠ .lutmem)
    (i : Nat) : t.elem sp i = s.elem sp i := by
  rw [State.Of.elem, State.Of.elem, h.mem sp h1 h2]

theorem SameInputs.foldl {β : Type} (f : State.Of p → β → State.Of p)
    (hf : ∀ s a, SameInputs s (f s a)) (l : List β) (s : State.Of p) :
    SameInputs s (l.foldl f s) := by
  induction l generalizing s with
  | nil => exact SameInputs.refl s
  | cons a l ih => exact (hf s a).trans (ih (f s a))

theorem sameInputs_linearSlice (s : State.Of p) (j : Nat) : SameInputs s (linearSlice s j) := rfl

theorem sameInputs_spatialSlice (n : Nat) (s : State.Of p) (j : Nat) : SameInputs s (spatialSlice n s j) := rfl

theorem sameInputs_spatialImage (s : State.Of p) (n : Nat) : SameInputs s (spatialImage s n) :=
  SameInputs.foldl (spatialSlice n) (sameInputs_spatialSlice n) _ _

theorem sameInputs_zero (s : State.Of p) : SameInputs s (zeroEffect s) := rfl

theorem sameInputs_bias (s : State.Of p) : SameInputs s (biasEffect s) := rfl

theorem SameInputs.fwdl (s : State.Of p) : SameInputs s (fwdlEffect s) :=
  ((sameInputs_zero s).trans (SameInputs.foldl linearSlice sameInputs_linearSlice _ _)).trans (sameInputs_bias _)

theorem SameInputs.fwds (s : State.Of p) : SameInputs s (fwdsEffect s) :=
  ((sameInputs_zero s).trans (SameInputs.foldl spatialImage sameInputs_spatialImage _ _)).trans (sameInputs_bias _)

/-- Every command but the lifecycle commands keeps all but `OUTMEM` and the lookup cache. -/
theorem commandEffect_sameInputs {i : Instr} (s : State.Of p) (h1 : i ≠ .reset) (h2 : ∀ slot, i ≠ .bind slot)
    (h3 : i ≠ .reshape) : SameInputs s (commandEffect i s) := by
  cases i
  case reset => exact absurd rfl h1
  case bind slot => exact absurd rfl (h2 slot)
  case reshape => exact absurd rfl h3
  case fwdl => exact SameInputs.fwdl s
  case fwds => exact SameInputs.fwds s
  all_goals rfl

/-- A fault whose info fits in 32 bits, written out (R212). -/
theorem raiseFault_eq {e : ErrCode} {info : Nat} {c : Word} {s : State.Of p} (h : info < 2 ^ 32) :
    raiseFault e info c s = s.faulted e.code info c := by
  simp only [raiseFault, State.Of.faulted, sat]
  rw [Nat.min_eq_left (by omega)]

/-- A fault is always one of the states `State.Of.faulted` describes. -/
theorem raiseFault_faulted (e : ErrCode) (info : Nat) (c : Word) (s : State.Of p) :
    raiseFault e info c s = s.faulted e.code (min info (2 ^ 32 - 1)) c := rfl

/-- Everything one access can do to the state `s` that `State.Of.served` left. -/
theorem serveAccess_cases {run : Instr → State.Of p → Result p} {a : HostAccess α} {s t : State.Of p}
    {rest : List (Request α)} (h : serveAccess run a { s with pending := rest } = .next t) :
    (∃ r, t = s.served rest r) ∨
    (∃ n v c, a = .regWrite n v ∧ s.cfg.writeReg n v = some c ∧ t = writeCfg c (s.served rest .accepted)) ∨
    (∃ sp i v, a = .memWrite sp i v ∧ writable p sp i = true ∧ t = writeElem sp i v (s.served rest .accepted)) ∨
    (∃ c i, a = .regWrite 1 c ∧ decode c = .ok i ∧ run i (s.served rest .accepted) = .next t) ∨
    (∃ c e, a = .regWrite 1 c ∧ decode c = .error e ∧ s.phase ≠ .fault ∧
      t = raiseFault .illegalCmd e.info c (s.served rest .accepted)) := by
  cases a with
  | regRead n =>
    simp only [serveAccess] at h
    split at h <;> cases h <;> exact .inl ⟨_, rfl⟩
  | memRead sp i =>
    simp only [serveAccess] at h
    split at h <;> cases h <;> exact .inl ⟨_, rfl⟩
  | memWrite sp i v =>
    simp only [serveAccess] at h
    split at h
    · rename_i hw
      cases h
      exact .inr (.inr (.inl ⟨sp, i, v, rfl, hw, rfl⟩))
    · cases h
      exact .inl ⟨_, rfl⟩
  | regWrite n v =>
    simp only [serveAccess] at h
    split at h
    · simp only [regWrite] at h
      split at h
      · rename_i hn
        subst hn
        simp only [execWord] at h
        split at h
        · rename_i i hi
          exact .inr (.inr (.inr (.inl ⟨v, i, rfl, hi, h⟩)))
        · rename_i e he
          split at h
          · cases h
            exact .inl ⟨_, rfl⟩
          · rename_i hp
            cases h
            exact .inr (.inr (.inr (.inr ⟨v, e, rfl, he, hp, rfl⟩)))
      · split at h
        · rename_i c hc
          cases h
          exact .inr (.inl ⟨n, v, c, rfl, hc, rfl⟩)
        · cases h
          exact .inl ⟨_, rfl⟩
    · cases h
      exact .inl ⟨_, rfl⟩

/-- Everything one step can do: nothing while no request is pending; else an answer and no more, a configuration
write, a memory write, a command, or the fault of an illegal word, as the request asks. -/
theorem serveNext_cases {run : Instr → State.Of p → Result p} {s t : State.Of p} (h : serveNext run s = .next t) :
    t = s ∨ ∃ q rest, s.pending = q :: rest ∧
      ((∃ r, t = s.served rest r) ∨
      (∃ n v c, q.translate p = some (.regWrite n v) ∧ s.cfg.writeReg n v = some c ∧
        t = writeCfg c (s.served rest .accepted)) ∨
      (∃ sp i v, q.translate p = some (.memWrite sp i v) ∧ writable p sp i = true ∧
        t = writeElem sp i v (s.served rest .accepted)) ∨
      (∃ c i, q.commands p c ∧ decode c = .ok i ∧ run i (s.served rest .accepted) = .next t) ∨
      (∃ c e, q.commands p c ∧ decode c = .error e ∧ s.phase ≠ .fault ∧
        t = raiseFault .illegalCmd e.info c (s.served rest .accepted))) := by
  simp only [serveNext] at h
  split at h
  · cases h
    exact .inl rfl
  · rename_i q rest hq
    refine .inr ⟨q, rest, hq, ?_⟩
    simp only [serve] at h
    split at h
    · rename_i a ha
      rcases serveAccess_cases h with
        g | ⟨n, v, c, rfl, g⟩ | ⟨sp, i, v, rfl, g⟩ | ⟨c, i, rfl, g⟩ | ⟨c, e, rfl, g⟩
      · exact .inl g
      · exact .inr (.inl ⟨n, v, c, ha, g⟩)
      · exact .inr (.inr (.inl ⟨sp, i, v, ha, g⟩))
      · exact .inr (.inr (.inr (.inl ⟨c, i, ha, g⟩)))
      · exact .inr (.inr (.inr (.inr ⟨c, e, ha, g⟩)))
    · cases h
      exact .inl ⟨_, rfl⟩

end Sys2Proof.Machine
end

