-- ==== Sys2Proof/Laws/Tables.lean ====
section
/-! SUPPORT. What the tables of the multiplier and the contributions of the gathers hold, entry by entry. -/

namespace Sys2Proof.Machine

variable {α : Type} {p : Params α}

/-! ### Rows of one length, one after the other -/

theorem length_flatMap_rows {α : Type} (f : Nat → List α) (w n : Nat) (h : ∀ i, i < n → (f i).length = w) :
    ((List.range n).flatMap f).length = n * w := by
  induction n with
  | zero => simp
  | succ n ih =>
    rw [List.range_succ, List.flatMap_append, List.length_append, ih fun i hi => h i (by omega)]
    simp [h n (by omega), Nat.add_mul]

/-- Entry `k` of row `i`. -/
theorem getElem?_flatMap_rows {α : Type} (f : Nat → List α) (w n i k : Nat)
    (h : ∀ i, i < n → (f i).length = w) (hi : i < n) (hk : k < w) :
    ((List.range n).flatMap f)[i * w + k]? = (f i)[k]? := by
  induction n with
  | zero => omega
  | succ n ih =>
    have hlen := length_flatMap_rows f w n fun i hi => h i (by omega)
    rw [List.range_succ, List.flatMap_append]
    rcases Nat.lt_or_ge i n with hlt | hge
    · rw [List.getElem?_append_left, ih (fun i hi => h i (by omega)) hlt]
      rw [hlen]
      calc i * w + k < i * w + w := by omega
        _ = (i + 1) * w := by ring
        _ ≤ n * w := Nat.mul_le_mul_right w hlt
    · have : i = n := by omega
      subst this
      rw [List.getElem?_append_right (by rw [hlen]; omega), hlen]
      simp

/-! ### Tables (spec/42_multiplier.md R152 to R154) -/

theorem length_tableRow (s : State.Of p) (r j : Nat) : (s.tableRow r j).length = s.cfg.k.toNat := by
  simp [State.Of.tableRow]

theorem length_tableRows (s : State.Of p) (j : Nat) : (s.tableRows j).length = s.cfg.batch.toNat * s.cfg.k.toNat :=
  length_flatMap_rows _ _ _ fun r _ => length_tableRow s r j

theorem length_tablePlanes (s : State.Of p) (n j : Nat) :
    (s.tablePlanes n j).length = s.cfg.k.toNat * s.cfg.positions :=
  length_flatMap_rows _ _ _ fun _ _ => by simp

theorem tableRow_entry (s : State.Of p) (r j k : Nat) (hk : k < s.cfg.k.toNat) :
    (s.tableRow r j)[k]? = some (s.dot j k (s.segmentLinear r j)) := by
  simp [State.Of.tableRow, hk]

theorem tableRows_entry (s : State.Of p) (j r k : Nat) (hr : r < s.cfg.batch.toNat) (hk : k < s.cfg.k.toNat) :
    (s.tableRows j)[r * s.cfg.k.toNat + k]? = some (s.dot j k (s.segmentLinear r j)) := by
  rw [State.Of.tableRows, getElem?_flatMap_rows _ _ _ _ _ (fun r _ => length_tableRow s r j) hr hk]
  exact tableRow_entry s r j k hk

theorem tablePlanes_entry (s : State.Of p) (n j k pos : Nat) (hk : k < s.cfg.k.toNat)
    (hp : pos < s.cfg.positions) :
    (s.tablePlanes n j)[k * s.cfg.positions + pos]? = some (s.dot j k (s.segmentSpatial n j pos)) := by
  rw [State.Of.tablePlanes, getElem?_flatMap_rows _ s.cfg.positions _ _ _ (fun _ _ => by simp) hk hp]
  simp [hp]

/-! ### The values of a list of contributions that go to one element -/

/-- The values a list of contributions adds to element `e`, in their order. -/
def addedTo (e : Nat) (cs : List (Nat × α)) : List α := (cs.filter fun c => c.1 = e).map Prod.snd

@[simp] theorem addedTo_nil (e : Nat) : addedTo e ([] : List (Nat × α)) = [] := rfl

theorem addedTo_cons (e : Nat) (c : Nat × α) (cs : List (Nat × α)) :
    addedTo e (c :: cs) = if c.1 = e then c.2 :: addedTo e cs else addedTo e cs := by
  by_cases h : c.1 = e <;> simp [addedTo, h]

theorem addedTo_append (e : Nat) (as bs : List (Nat × α)) :
    addedTo e (as ++ bs) = addedTo e as ++ addedTo e bs := by simp [addedTo]

theorem addedTo_flatMap {β : Type} (e : Nat) (l : List β) (f : β → List (Nat × α)) :
    addedTo e (l.flatMap f) = l.flatMap fun x => addedTo e (f x) := by
  induction l with
  | nil => rfl
  | cons x l ih => simp [addedTo_append, ih]

/-- No contribution goes to `e`. -/
theorem addedTo_none {e : Nat} {cs : List (Nat × α)} (h : ∀ c ∈ cs, c.1 ≠ e) : addedTo e cs = [] := by
  simp [addedTo, List.filter_eq_nil_iff]
  exact fun a b hm => h (a, b) hm

/-- Read after a list of scatter-adds, in these terms. -/
theorem read_scatterAdd_addedTo (cs : List (Nat × α)) (m : Memory α) (e : Nat) :
    Memory.read p .outmem (Memory.scatterAdd p cs m) e = (addedTo e cs).foldl p.real.radd (Memory.read p .outmem m e) :=
  Memory.read_scatterAdd cs m e

/-- Of the rows `0 .. n-1` only row `i` has something for this element. -/
theorem flatMap_range_single {α : Type} (g : Nat → List α) (n i : Nat) (hi : i < n)
    (h : ∀ x, x < n → x ≠ i → g x = []) : (List.range n).flatMap g = g i := by
  induction n with
  | zero => omega
  | succ n ih =>
    rw [List.range_succ, List.flatMap_append]
    rcases Nat.lt_or_ge i n with hlt | hge
    · rw [ih hlt fun x hx => h x (by omega)]
      simp [h n (by omega) (by omega)]
    · have : i = n := by omega
      subst this
      rw [List.flatMap_eq_nil_iff.2 fun x hx => h x (by simp at hx; omega) (by simp at hx; omega)]
      simp

/-- One value for each of the elements `base .. base + n - 1`. -/
theorem addedTo_map_range (base n : Nat) (v : Nat → α) (e : Nat) :
    addedTo e ((List.range n).map fun l => (base + l, v l)) =
      if base ≤ e ∧ e < base + n then [v (e - base)] else [] := by
  induction n with
  | zero => simp
  | succ n ih =>
    rw [List.range_succ, List.map_append, addedTo_append, ih]
    simp only [List.map_cons, List.map_nil, addedTo_cons, addedTo_nil]
    by_cases h : base + n = e
    · subst h; simp
    · simp only [h, if_false, List.append_nil]
      congr 1
      exact propext ⟨fun h => by omega, fun h => by omega⟩

/-- One value for each place of a table of `n` rows of `w`: what goes to place `l` of row `r`. -/
theorem addedTo_rows (n w : Nat) (v : Nat → Nat → α) (r l : Nat) (hr : r < n) (hl : l < w) :
    addedTo (r * w + l) ((List.range n).flatMap fun r => (List.range w).map fun l => (r * w + l, v r l)) =
      [v r l] := by
  rw [addedTo_flatMap, flatMap_range_single _ n r hr]
  · rw [addedTo_map_range (r * w) w (v r), if_pos (by omega)]
    simp
  · intro x _ hx
    rw [addedTo_map_range (x * w) w (v x), if_neg]
    rintro ⟨h1, h2⟩
    rcases Nat.lt_or_ge x r with h | h
    · have := Nat.mul_le_mul_right w (Nat.succ_le_of_lt h)
      rw [Nat.succ_mul] at this
      omega
    · have := Nat.mul_le_mul_right w (show r + 1 ≤ x by omega)
      rw [Nat.add_mul] at this
      omega

/-- Nothing goes past the last row. -/
theorem addedTo_rows_past (n w : Nat) (v : Nat → Nat → α) (e : Nat) (he : n * w ≤ e) :
    addedTo e ((List.range n).flatMap fun r => (List.range w).map fun l => (r * w + l, v r l)) = [] := by
  refine addedTo_none fun c hc => ?_
  simp only [List.mem_flatMap, List.mem_map, List.mem_range] at hc
  obtain ⟨r, hr, l, hl, rfl⟩ := hc
  have := Nat.mul_le_mul_right w (Nat.succ_le_of_lt hr)
  rw [Nat.succ_mul] at this
  simp only
  omega

/-! ### The window gather (spec/43_gather_accumulate.md R174, R175) -/

/-- A place of a table has one row and one column. -/
theorem rowColumn_inj {a a' b b' w : Nat} (h : a * w + b = a' * w + b') (hb : b < w) (hb' : b' < w) :
    a = a' ∧ b = b' := by
  have e1 : (a * w + b) / w = a := by
    rw [Nat.mul_comm, Nat.mul_add_div (by omega), Nat.div_eq_of_lt hb]; omega
  have e2 : (a' * w + b') / w = a' := by
    rw [Nat.mul_comm, Nat.mul_add_div (by omega), Nat.div_eq_of_lt hb']; omega
  have : a = a' := by rw [← e1, ← e2, h]
  subst this
  exact ⟨rfl, by omega⟩

/-- R75, spatial mode: an output element has one image, one channel and one position. -/
theorem outIndexSpatial_inj {s : State.Of p} {n ch oh ow n' ch' oh' ow' : Nat}
    (h : s.outIndexSpatial n ch oh ow = s.outIndexSpatial n' ch' oh' ow')
    (h1 : ch < s.cfg.numOut.toNat) (h2 : oh < s.derived.outH.toNat) (h3 : ow < s.derived.outW.toNat)
    (h1' : ch' < s.cfg.numOut.toNat) (h2' : oh' < s.derived.outH.toNat) (h3' : ow' < s.derived.outW.toNat) :
    n = n' ∧ ch = ch' ∧ oh = oh' ∧ ow = ow' := by
  unfold State.Of.outIndexSpatial at h
  obtain ⟨h, e3⟩ := rowColumn_inj h h3 h3'
  obtain ⟨h, e2⟩ := rowColumn_inj h h2 h2'
  obtain ⟨h, e1⟩ := rowColumn_inj h h1 h1'
  exact ⟨h, e1, e2, e3⟩

theorem inBounds_iff (x : Int) (size : Nat) : inBounds x size = true ↔ 0 ≤ x ∧ x < size := by simp [inBounds]

/-- One tap at one position contributes to its own output element only. -/
theorem mem_gacsAt {s : State.Of p} {n ch code kh kw oh ow : Nat} {c : Nat × α}
    (h : c ∈ s.gacsAt n ch code kh kw oh ow) : c.1 = s.outIndexSpatial n ch oh ow := by
  simp only [State.Of.gacsAt] at h
  split at h <;> simp at h
  simp [h]

/-- A window gather contributes to elements of its own image only. -/
theorem mem_gacsContributions {s : State.Of p} {n j : Nat} {c : Nat × α} (h : c ∈ s.gacsContributions n j) :
    ∃ ch oh ow, ch < s.cfg.numOut.toNat ∧ oh < s.derived.outH.toNat ∧ ow < s.derived.outW.toNat ∧
      c.1 = s.outIndexSpatial n ch oh ow := by
  simp only [State.Of.gacsContributions, State.Of.gacsTap, List.mem_flatMap, List.mem_range] at h
  obtain ⟨ch, hch, kh, -, kw, -, oh, hoh, ow, how, h⟩ := h
  exact ⟨ch, oh, ow, hch, hoh, how, mem_gacsAt h⟩

/-- What a window gather adds to one element: the taps at its own position, in ascending tap row, then column. -/
theorem addedTo_gacsContributions (s : State.Of p) (n j ch oh ow : Nat) (h1 : ch < s.cfg.numOut.toNat)
    (h2 : oh < s.derived.outH.toNat) (h3 : ow < s.derived.outW.toNat) :
    addedTo (s.outIndexSpatial n ch oh ow) (s.gacsContributions n j) =
      (List.range s.cfg.kernelH.toNat).flatMap fun kh => (List.range s.cfg.kernelW.toNat).flatMap fun kw =>
        addedTo (s.outIndexSpatial n ch oh ow)
          (s.gacsAt n ch (s.code (s.cfg.decIndexSpatial j kh kw ch)) kh kw oh ow) := by
  rw [State.Of.gacsContributions, addedTo_flatMap, flatMap_range_single _ _ ch h1]
  · rw [addedTo_flatMap]
    congr 1; funext kh
    rw [addedTo_flatMap]
    congr 1; funext kw
    rw [State.Of.gacsTap, addedTo_flatMap, flatMap_range_single _ _ oh h2, addedTo_flatMap,
      flatMap_range_single _ _ ow h3]
    · refine fun x hx hne => addedTo_none fun c hc he => ?_
      rw [mem_gacsAt hc] at he
      exact hne (outIndexSpatial_inj he h1 h2 hx h1 h2 h3).2.2.2
    · refine fun x hx hne => addedTo_none fun c hc he => ?_
      simp only [List.mem_flatMap, List.mem_range] at hc
      obtain ⟨ow', how', hc⟩ := hc
      rw [mem_gacsAt hc] at he
      exact hne (outIndexSpatial_inj he h1 hx how' h1 h2 h3).2.2.1
  · refine fun x hx hne => addedTo_none fun c hc he => ?_
    simp only [State.Of.gacsTap, List.mem_flatMap, List.mem_range] at hc
    obtain ⟨kh, -, kw, -, oh', hoh', ow', how', hc⟩ := hc
    rw [mem_gacsAt hc] at he
    exact hne (outIndexSpatial_inj he hx hoh' how' h1 h2 h3).2.1

/-- The value one tap at one position adds: one table entry where the input coordinate is in bounds, else none. -/
theorem addedTo_gacsAt (s : State.Of p) (n ch code kh kw oh ow : Nat) :
    addedTo (s.outIndexSpatial n ch oh ow) (s.gacsAt n ch code kh kw oh ow) =
      if 0 ≤ s.cfg.tapRow oh kh ∧ s.cfg.tapRow oh kh < s.cfg.inH.toNat ∧
          0 ≤ s.cfg.tapCol ow kw ∧ s.cfg.tapCol ow kw < s.cfg.inW.toNat then
        [s.elem .lutmem (s.cfg.lutIndexS code
          ((s.cfg.tapRow oh kh).toNat * s.cfg.inW.toNat + (s.cfg.tapCol ow kw).toNat))]
      else [] := by
  simp only [State.Of.gacsAt, Bool.and_eq_true, inBounds_iff]
  split
  · rename_i h
    rw [if_pos ⟨h.1.1, h.1.2, h.2.1, h.2.2⟩]
    simp [addedTo_cons]
  · rename_i h
    rw [if_neg fun hh => h ⟨⟨hh.1, hh.2.1⟩, hh.2.2.1, hh.2.2.2⟩]
    rfl

/-- Reading an output element after a gather. -/
theorem gather_elem_outmem (s : State.Of p) (cs : List (Nat × α)) (e : Nat) :
    (s.gather cs).elem .outmem e = (addedTo e cs).foldl p.real.radd (s.elem .outmem e) :=
  read_scatterAdd_addedTo cs s.outmem e

end Sys2Proof.Machine
end

