-- ==== Sys2Proof/Tests/Slice0.lean ====
section
/-! SUPPORT. The model's own tests: ill-formed terms, written-out words, one step per instruction on the small vectors
of spec/95_test_vectors.md, and for each statement with hypotheses a concrete state that meets them. Expected values
are the spec's; reals are written as their binary32 patterns. -/

namespace Sys2Proof.Tests

set_option Elab.async false

open Sys2Proof Sys2Proof.Machine

/-! ### Helpers -/

/-- The state a result leaves. -/
def after {α : Type} {p : Params α} : Result p → State.Of p
  | .next t => t
  | .fault _ => State.Of.powerOn p
  | .refused _ => State.Of.powerOn p

/-- The state a command leaves. -/
def run (i : Instr) (s : State) : State := after (exec i s)

/-- The state with one request pending. -/
def asked (q : Request Word) (s : State) : State := { s with pending := [q] }

/-- The state after one host access is served. -/
def served (a : HostAccess Word) (s : State) : State := after (step (asked (.access a) s))

/-- A `CONFIGURED` state with these registers and these parameter and input elements. -/
def configuredOn {α : Type} (p : Params α) (c : Cfg) (cb bias idx inp : List α) : State.Of p :=
  { State.Of.powerOn p with
    phase := .configured, boundCb := true, boundBias := true, boundIdx := true, cfg := c,
    cbmem := Memory.ofList 0 cb, biasmem := Memory.ofList 0 bias, idxmem := Memory.ofList 0 idx,
    inmem := Memory.ofList 0 inp }

/-- The same with the reference parameters. -/
def configured (c : Cfg) (cb bias idx inp : List Word) : State := configuredOn reference c cb bias idx inp

/-- The first `n` elements of a space. -/
def elems {α : Type} {p : Params α} (s : State.Of p) (sp : Space) (n : Nat) : List α := (List.range n).map (s.elem sp)

/-- `STATUS`, `ERRINFO`, `ERRCMD`. -/
def record (s : State) : List Nat := [s.readReg 0, s.readReg 2, s.readReg 3].map BitVec.toNat

theorem execOn_run {α : Type} {p : Params α} (i : Instr) (s : State.Of p) : execOn i s = .next (after (execOn i s)) := by
  by_cases hi : i = .reset
  · subst hi
    rfl
  · rw [execOn_eq_runCommand hi]
    rcases runCommand_cases (encode i) (commandChecks i s) (commandEffect i) s with h | h | h
    · rw [h.2]
      rfl
    · obtain ⟨-, k, -, h⟩ := h
      rw [h]
      rfl
    · rw [h.2.2]
      rfl

theorem exec_run (i : Instr) (s : State) : exec i s = .next (run i s) := by
  rw [run, exec_eq_execOn]
  exact execOn_run i s

/-- The result is a next state. -/
def isNext : Result reference → Bool
  | .next _ => true
  | .fault _ => false
  | .refused _ => false

theorem next_after {r : Result reference} (h : isNext r = true) : r = .next (after r) := by
  cases r <;> first | rfl | cases h

/-! ### The states of the vectors -/

/-- V21: linear mode, two batch rows. -/
def v21cfg : Cfg :=
  { Cfg.zero with
    wbits := 8, k := 2, m := 2, totalWidth := 8, numOut := 5, cbLen := 16, biasLen := 5, idxLen := 3, batch := 2,
    inWidth := 8 }

def v21 : State :=
  configured v21cfg [0x40400000, 0x40400000, 0x00000000, 0x40000000, 0x40400000, 0x40400000, 0x00000000, 0x40000000,
      0x40400000, 0x40400000, 0x00000000, 0x40000000, 0x40400000, 0x40400000, 0x00000000, 0x40000000]
    [0x40400000, 0x40400000, 0x40400000, 0x40400000, 0x40400000] [0x08, 0xCE, 0xF0]
    [0x3F800000, 0x40000000, 0x40400000, 0x40800000, 0x40A00000, 0x40C00000, 0x40E00000, 0x41000000, 0x41000000,
        0x40E00000, 0x40C00000, 0x40A00000, 0x40800000, 0x40400000, 0x40000000, 0x3F800000]

/-- V21 after `RESHAPE`. -/
def linear : State := run .reshape v21

/-- V22: the table of row 1, slice 2. -/
def linearV : State := run (.mulv 1 2) linear

/-- V21 after `MULB 3`. -/
def linearB : State := run (.mulb 3) linear

/-- V32: spatial mode, one image, padding. -/
def v32cfg : Cfg :=
  { Cfg.zero with
    mode := 3, wbits := 8, k := 2, m := 1, totalWidth := 1, numOut := 1, cbLen := 2, biasLen := 1, idxLen := 1,
    batch := 1, inWidth := 1, inH := 2, inW := 2, kernelH := 1, kernelW := 1, padH := 1, padW := 1, strideH := 1,
    strideW := 1, dilH := 1, dilW := 1 }

def v32 : State := configured v32cfg [0x40A00000, 0x40E00000] [0x42C80000] [0x80] [0x3F800000, 0x40000000,
    0x40400000, 0x40800000]

/-- V32 after `RESHAPE`. -/
def padded : State := run .reshape v32

/-- V35: a window whose axes differ in every register. -/
def v35 : State :=
  configured
    { v32cfg with
      cbLen := 2, inH := 4, inW := 6, kernelH := 3, kernelW := 1, padH := 1, padW := 0, strideH := 2, strideW := 3 }
    [0x3F800000, 0xBF800000] [0x3F800000] [0x40]
    [0x3F800000, 0x40000000, 0x40400000, 0x40800000, 0x40A00000, 0x40C00000, 0x40E00000, 0x41000000, 0x41100000,
        0x41200000, 0x41300000, 0x41400000, 0x41500000, 0x41600000, 0x41700000, 0x41800000, 0x41880000, 0x41900000,
        0x41980000, 0x41A00000, 0x41A80000, 0x41B00000, 0x41B80000, 0x41C00000]

/-- V37: two images, four codewords. -/
def v37 : State :=
  configured
    { v32cfg with
      k := 4, m := 2, totalWidth := 2, inWidth := 2, numOut := 2, batch := 2, cbLen := 8, biasLen := 2, padH := 0,
      padW := 0 }
    [0x3F800000, 0x00000000, 0x3F800000, 0x40000000, 0x00000000, 0x3F800000, 0x3F800000, 0xBF800000] [0x3F000000,
        0xBF000000] [0xB0]
    [0x3F800000, 0x40000000, 0x40400000, 0x40800000, 0x40A00000, 0x40C00000, 0x40E00000, 0x41000000, 0xBF800000,
        0xC0000000, 0xC0400000, 0xC0800000, 0x00000000, 0x3F800000, 0x00000000, 0x3F800000]

/-- V37 after `RESHAPE`. -/
def images : State := run .reshape v37

/-- V37 after `MULS 1, 0`. -/
def imagesS : State := run (.muls 1 0) images

/-- A block in `FAULT`: `RESHAPE` straight after reset (V43, first row). -/
def failed : State := run .reshape State.reset

/-- A block with exact arithmetic (R11) and no host bus. -/
def exactParams : Params ℚ := { rationalParams (fun _ _ => 0) with hostMap := fun _ _ => none }

/-- V21 on that block, after `RESHAPE`. -/
def exactLinear : State.Of exactParams :=
  after (execOn .reshape (configuredOn exactParams v21cfg [3, 3, 0, 2, 3, 3, 0, 2, 3, 3, 0, 2, 3, 3, 0, 2]
    [3, 3, 3, 3, 3] [0x08, 0xCE, 0xF0] [1, 2, 3, 4, 5, 6, 7, 8, 8, 7, 6, 5, 4, 3, 2, 1]))

/-! ### Well-formedness and command words -/

theorem test_bind_three_is_ill_formed : Instr.wellFormed (.bind 3) = false := by decide

theorem test_bind_two_is_well_formed : Instr.wellFormed (.bind 2) = true := by decide

/-- The words of R93, field by field: opcode, `R`, `J`. -/
theorem test_words_decode :
    decode 0b00000000_000000000000_000000000000#32 = .ok .nop ∧
    decode 0b00000001_000000000000_000000000000#32 = .ok .reset ∧
    decode 0b00000010_000000000000_000000000001#32 = .ok (.bind 1) ∧
    decode 0b00000011_000000000000_000000000000#32 = .ok .reshape ∧
    decode 0b00010000_000000000001_000000000010#32 = .ok (.mulv 1 2) ∧
    decode 0b00010001_000000000000_000000000011#32 = .ok (.mulb 3) ∧
    decode 0b00010010_100000000000_000000000001#32 = .ok (.muls 2048 1) ∧
    decode 0b00100000_000000000000_000000000000#32 = .ok .zero ∧
    decode 0b00100001_111111111111_000000000000#32 = .ok (.gacv 4095 0) ∧
    decode 0b00100010_000000000000_111111111111#32 = .ok (.gacb 4095) ∧
    decode 0b00100011_000000000111_000000000101#32 = .ok (.gacs 7 5) ∧
    decode 0b00100100_000000000000_000000000000#32 = .ok .bias ∧
    decode 0b00110000_000000000000_000000000000#32 = .ok .fwdl ∧
    decode 0b00110001_000000000000_000000000000#32 = .ok .fwds := by decide

/-- V44: the illegal words and the `ERRINFO` of each. -/
theorem test_illegal_words :
    ([0x04000000, 0x13000000, 0x25000000, 0x32000000, 0xFF000000, 0x00000001, 0x01000001, 0x03001000, 0x02000004,
      0x11001000, 0x30000001, 0x02000003] : List Word).map
        (fun c => match decode c with | .ok _ => 9 | .error e => e.info)
      = [0, 0, 0, 0, 0, 1, 1, 1, 1, 1, 1, 2] := by decide

theorem test_decodeTableWord_reads_32_bits :
    decodeTableWord 32 0x23007005 = some (.gacs 7 5) ∧ decodeTableWord 32 0x02000003 = none := by decide

theorem test_withFetchWord_runs_on_reset :
    (after (step (State.reset.withFetchWord 32 0x03000000))).readReg 0 = 0x00002004 := by decide

/-! ### One step per instruction -/

theorem test_nop_keeps_table : run .nop linearV = linearV := by decide +kernel

theorem test_reset_after_fault : record failed = [0x00002004, 0, 0x03000000] ∧
    record (run .reset failed) = [0, 0, 0] ∧ run .reset linear = { State.reset with
      cbmem := v21.cbmem, biasmem := v21.biasmem, idxmem := v21.idxmem, inmem := v21.inmem } := by decide +kernel

/-- V42: `STATUS` after each `BIND`. -/
theorem test_bind_in_any_order :
    let s : State := { State.reset with cfg := v21cfg }
    (run (.bind 0) s).readReg 0 = 0x10 ∧ (run (.bind 2) (run (.bind 0) s)).readReg 0 = 0x50 ∧
    (run (.bind 1) (run (.bind 2) (run (.bind 0) s))).readReg 0 = 0x71 := by decide +kernel

theorem test_bind_capacity :
    record (run (.bind 1) { State.reset with cfg := { v21cfg with biasLen := 5000 } }) = [0x1504, 2, 0x02000001] := by
  decide +kernel

theorem test_reshape_linear :
    linear.readReg 0 = 0x73 ∧ (List.range 9).map (fun n => (linear.readReg (32 + n)).toNat) = [1, 4, 20, 0, 0, 16, 10, 3, 4] ∧
    (elems linear .decmem 20).map BitVec.toNat = [0, 0, 0, 0, 1, 0, 0, 0, 1, 1, 0, 0, 1, 1, 1, 0, 1, 1, 1, 1] := by
  decide +kernel

theorem test_reshape_spatial :
    (List.range 9).map (fun n => (images.readReg (32 + n)).toNat) = [2, 1, 2, 2, 2, 16, 16, 1, 16] ∧
    (elems images .decmem 2).map BitVec.toNat = [2, 3] := by decide +kernel

theorem test_mulv_row_one_slice_two :
    elems linearV .lutmem 2 = [0x41400000, 0x41900000] ∧ linearV.readReg 0 = 0x000100F3 ∧ linearV.readReg 4 =
        0x00001002 := by
  decide +kernel

theorem test_mulb_slice_three :
    elems linearB .lutmem 4 = [0x41A80000, 0x42140000, 0x40C00000, 0x41000000] ∧ linearB.readReg 0 = 0x000200F3 ∧
        linearB.readReg 4 = 3 := by
  decide +kernel

theorem test_muls_image_one :
    elems imagesS .lutmem 16 = [0xBF800000, 0xC0000000, 0xC0400000, 0xC0800000, 0x00000000, 0x3F800000, 0x00000000,
        0x3F800000, 0xBF800000, 0xBF800000, 0xC0400000, 0xC0400000, 0xC0000000, 0xC0A00000, 0xC0C00000, 0xC1100000]
        ∧ imagesS.readReg 4 = 0x00001000 := by
  decide +kernel

/-- V26: `ZERO` leaves the element past `OUT_EXTENT`. -/
theorem test_zero_stops_at_extent :
    elems (run .zero { linearV with outmem := Memory.ofList 0 (List.replicate 11 0x41100000) }) .outmem 11
      = [0x00000000, 0x00000000, 0x00000000, 0x00000000, 0x00000000, 0x00000000, 0x00000000, 0x00000000, 0x00000000,
          0x00000000, 0x41100000] := by decide +kernel

/-- R172's example, on row 1: the table of slice 2 is `12, 18`, the codes of slice 2 are `0, 0, 1, 1, 1`. -/
theorem test_gacv_adds_to_one_row :
    let t := run (.gacv 1 2) { linearV with outmem := Memory.ofList 0 [0x3F800000, 0x40000000, 0x40400000,
        0x40800000, 0x40A00000, 0x40C00000, 0x40E00000, 0x41000000, 0x41100000, 0x41200000] }
    elems t .outmem 10 = [0x3F800000, 0x40000000, 0x40400000, 0x40800000, 0x40A00000, 0x41900000, 0x41980000,
        0x41D00000, 0x41D80000, 0x41E00000] ∧ t.readReg 0 = 0x73 := by decide +kernel

/-- R173's example. -/
theorem test_gacb_adds_to_every_row :
    elems (run (.gacb 3) (run .zero linearB)) .outmem 10 = [0x41A80000, 0x42140000, 0x42140000, 0x42140000,
        0x42140000, 0x40C00000, 0x41000000, 0x41000000, 0x41000000, 0x41000000] := by decide +kernel

/-- V45: a gather without its table. -/
theorem test_gather_faults_on_tag :
    record (run (.gacb 2) linearV) = [0x000120F4, 2, 0x22000002] ∧
    record (run (.gacs 0 0) imagesS) = [0x000320F4, 2, 0x23000000] := by decide +kernel

/-- V33: the gather of V32's window, without bias. -/
theorem test_gacs_skips_padding :
    elems (run (.gacs 0 0) (run (.muls 0 0) (run .zero padded))) .outmem 16
      = [0x00000000, 0x00000000, 0x00000000, 0x00000000, 0x00000000, 0x40E00000, 0x41600000, 0x00000000, 0x00000000,
          0x41A80000, 0x41E00000, 0x00000000, 0x00000000, 0x00000000, 0x00000000, 0x00000000] := by decide +kernel

/-- V26: `BIAS` twice adds twice; V33: without `BIAS_EN` nothing is added. -/
theorem test_bias_adds_each_time :
    elems (run .bias (run .bias (run .zero linear))) .outmem 10 = List.replicate 10 0x40C00000 ∧
    (let s : State := { padded with cfg := { v32cfg with mode := 1 } }; run .bias s = s) := by decide +kernel

/-- V21. -/
theorem test_fwdl_two_rows :
    elems (run .fwdl linear) .outmem 10 = [0x424C0000, 0x42860000, 0x429E0000, 0x42AE0000, 0x42B60000, 0x427C0000,
        0x42820000, 0x428E0000, 0x42A20000, 0x42BE0000] ∧ (run .fwdl linear).readReg 0 = 0x73 := by
  decide +kernel

/-- V32 and V35. -/
theorem test_fwds_padding_and_axes :
    elems (run .fwds padded) .outmem 16
      = [0x42C80000, 0x42C80000, 0x42C80000, 0x42C80000, 0x42C80000, 0x42D60000, 0x42E40000, 0x42C80000, 0x42C80000,
          0x42F20000, 0x43000000, 0x42C80000, 0x42C80000, 0x42C80000, 0x42C80000, 0x42C80000] ∧
    elems (run .fwds (run .reshape v35)) .outmem 4 = [0x40E00000, 0x40E00000, 0x41600000, 0x41880000] := by
        decide +kernel

/-- V21 with the exact rationals: the same numbers (R11). -/
theorem test_fwdl_exact :
    elems (after (execOn .fwdl exactLinear)) .outmem 10 = [51, 67, 79, 87, 91, 63, 65, 71, 81, 95] := by
  decide +kernel

/-- V37. -/
theorem test_fwds_two_images :
    elems (run .fwds images) .outmem 16
      = [0x40D00000, 0x41080000, 0x41280000, 0x41480000, 0xC0600000, 0xC0200000, 0xBFC00000, 0xBF000000, 0xBF000000,
          0xBF000000, 0xC0200000, 0xC0200000, 0xC0200000, 0xC0B00000, 0xC0D00000, 0xC1180000] := by decide +kernel

/-! ### The decoder and binary32 -/

/-- V1, V3, V5, V10 and, for the failures, V11, V12. -/
theorem test_decode_vectors :
    (decodeCodes [0xAB, 0x9C, 0x1C] 8 3 8).toOption = some [5, 2, 7, 1, 6, 0, 3, 4] ∧
    (decodeCodes [0xF82AA8F8, 0x20000000] 7 5 32).toOption = some [31, 0, 21, 10, 17, 30, 1] ∧
    (decodeCodes [0xAAAA, 0xBFE0] 3 9 16).toOption = some [341, 170, 511] ∧
    (decodeCodes [] 0 3 8).toOption = some [] ∧
    (match decodeCodes [0xAB, 0x9C] 8 3 8 with | .ok _ => 0 | .error q => q) = 2 ∧
    (match decodeCodes [0xAB] 3 3 8 with | .ok _ => 0 | .error q => q) = 1 := by decide +kernel

/-- V70, V74, V75, V77, V78, one operation at a time. -/
theorem test_binary32_vectors :
    radd 0x4B800000 0x3F800000 = 0x4B800000 ∧ radd 0x40000000 0x4B800000 = 0x4B800001 ∧
    rmul 0x7F61B1E6 0x40000000 = 0x7F800000 ∧ radd 0 0x80000000 = 0 ∧
    radd (radd 0x3DCCCCCD 0x3E4CCCCD) 0x3E99999A = 0x3F19999A ∧ rmul 0x00000001 0x3F000000 = 0 := by decide +kernel

/-- V73, V79: some NaN. -/
theorem test_binary32_nan :
    radd 0x7F800000 0xFF800000 = f32NaN (Config.nanOfAdd 0x7F800000 0xFF800000) ∧
    rmul 0x7FC00000 0x3F800000 = f32NaN (Config.nanOfMul 0x7FC00000 0x3F800000) := ⟨rfl, rfl⟩

/-! ### Host accesses -/

/-- V63. -/
theorem test_cache_windows :
    (served (.memRead .lutmem 1) linearV).reply = .value 0x41900000 ∧ (served (.memRead .lutmem 2) linearV).reply =
        .refused ∧
    (served (.memRead .decmem 19) linear).reply = .value 1 ∧ (served (.memRead .decmem 20) linear).reply = .refused := by
  decide +kernel

/-- V61 to V65: what each write leaves in `STATUS`. -/
theorem test_host_writes :
    (served (.regWrite 8 0xFFFFFFFF) State.reset).readReg 8 = 3 ∧ (served (.regWrite 0 5) State.reset).readReg 0 = 0 ∧
    (served (.regWrite 17 2) linearV).readReg 0 = 0x71 ∧ (served (.memWrite .idxmem 2 0xF0) linear).readReg 0 = 0x30 ∧
    (served (.memWrite .inmem 0 0x3F800000) linearV).readReg 0 = 0x73 ∧
    (served (.memWrite .decmem 0 1) linear).reply = .refused := by decide +kernel

/-- R64: the windows of the default `HOST_MAP`. -/
theorem test_host_map :
    defaultHostMap 0x00000004 4 = some (.register 1) ∧ defaultHostMap 0x00000100 4 = none ∧
    defaultHostMap 0x01000008 4 = some (.element .cbmem 2) ∧ defaultHostMap 0x02004000 4 = none ∧
    defaultHostMap 0x07000002 4 = none ∧ defaultHostMap 0x08000000 4 = none ∧ defaultHostMap 0x00000004 2 = none := by
  decide

/-! ### States that meet the statements' hypotheses -/

theorem inv_asked {s : State} (h : s.Inv) (q : Request Word) : (asked q s).Inv :=
  ⟨⟨h.1.1, h.1.2, h.1.3, h.1.4, h.1.5, h.1.6, h.1.7⟩, fun hp => ⟨(h.2 hp).1, (h.2 hp).2, (h.2 hp).3⟩,
    fun hv => ⟨(h.3 hv).1, (h.3 hv).2, (h.3 hv).3, (h.3 hv).4, (h.3 hv).5⟩,
    fun sp => by have := h.4 sp; cases sp <;> exact this, fun sp => by have := h.5 sp; cases sp <;> exact this⟩

theorem linear_inv : linear.Inv where
  lifecycle := ⟨by decide +kernel, by decide +kernel, by decide +kernel, by decide +kernel, by decide +kernel,
    by decide +kernel, by decide +kernel⟩
  ready _ := ⟨by decide +kernel, by decide +kernel,
    [0, 0, 0, 0, 1, 0, 0, 0, 1, 1, 0, 0, 1, 1, 1, 0, 1, 1, 1, 1], rfl, by decide +kernel⟩
  table h := absurd h (by decide +kernel)
  canonical sp := by cases sp <;> decide +kernel
  inRange sp := by cases sp <;> decide +kernel

theorem linearV_inv : linearV.Inv where
  lifecycle := ⟨by decide +kernel, by decide +kernel, by decide +kernel, by decide +kernel, by decide +kernel,
    by decide +kernel, by decide +kernel⟩
  ready _ := ⟨by decide +kernel, by decide +kernel,
    [0, 0, 0, 0, 1, 0, 0, 0, 1, 1, 0, 0, 1, 1, 1, 0, 1, 1, 1, 1], rfl, by decide +kernel⟩
  table _ := ⟨by decide +kernel, by decide +kernel, by decide +kernel, by decide +kernel, by decide +kernel⟩
  canonical sp := by cases sp <;> decide +kernel
  inRange sp := by cases sp <;> decide +kernel

theorem padded_inv : padded.Inv where
  lifecycle := ⟨by decide +kernel, by decide +kernel, by decide +kernel, by decide +kernel, by decide +kernel,
    by decide +kernel, by decide +kernel⟩
  ready _ := ⟨by decide +kernel, by decide +kernel, [1], rfl, by decide +kernel⟩
  table h := absurd h (by decide +kernel)
  canonical sp := by cases sp <;> decide +kernel
  inRange sp := by cases sp <;> decide +kernel

theorem images_inv : images.Inv where
  lifecycle := ⟨by decide +kernel, by decide +kernel, by decide +kernel, by decide +kernel, by decide +kernel,
    by decide +kernel, by decide +kernel⟩
  ready _ := ⟨by decide +kernel, by decide +kernel, [2, 3], rfl, by decide +kernel⟩
  table h := absurd h (by decide +kernel)
  canonical sp := by cases sp <;> decide +kernel
  inRange sp := by cases sp <;> decide +kernel

theorem exactParams_valid : exactParams.Valid where
  capacity_pos := by intro sp; cases sp <;> decide
  capacity_fits := by intro sp; cases sp <;> decide
  decCapacity := by decide
  lutCapacity := by decide
  maxBits_range := by decide
  hostMap_injective := fun _ _ _ _ _ h => by cases h
  toWord_ofWord := fun w => by
    show BitVec.ofInt 32 ((w.toNat : ℚ)).num = w
    rw [Rat.num_natCast]
    simp

theorem exactLinear_inv : exactLinear.Inv where
  lifecycle := ⟨by decide +kernel, by decide +kernel, by decide +kernel, by decide +kernel, by decide +kernel,
    by decide +kernel, by decide +kernel⟩
  ready _ := ⟨by decide +kernel, by decide +kernel,
    [0, 0, 0, 0, 1, 0, 0, 0, 1, 1, 0, 0, 1, 1, 1, 0, 1, 1, 1, 1], by decide +kernel, by decide +kernel⟩
  table h := absurd h (by decide +kernel)
  canonical sp := by cases sp <;> decide +kernel
  inRange sp := by cases sp <;> decide +kernel

/-! ### Witnesses: registers and host accesses -/

theorem witness_ConfigRegisterReadsBack :
    ((Cfg.zero.writeReg 8 0xFFFFFFFF).bind fun d => d.readReg 8) = some 3 ∧
    ((Cfg.zero.writeReg 28 0xFFFFFFFF).bind fun d => d.readReg 28) = some 0xFFFFFFFF ∧
    Cfg.zero.writeReg 7 1 = none ∧ Cfg.zero.writeReg 29 1 = none := by decide

theorem witness_RegisterReadHasNoSideEffect :
    (asked (.access (.regRead 63)) linearV).pending = [.access (.regRead 63)] ∧
    [1, 5, 7, 29, 31, 41, 63].map linearV.readReg = List.replicate 7 0 := by decide +kernel

theorem witness_ReadOnlyRegisterWriteIgnored :
    [0, 2, 7, 29, 63].map (fun n => (served (.regWrite n 5) linearV).readReg n)
      = [0, 2, 7, 29, 63].map linearV.readReg ∧
    (asked (.access (.regWrite 63 5)) linearV).pending = [.access (.regWrite 63 5)] := by decide +kernel

theorem witness_ConfigWriteLeavesReady :
    linearV.phase = .ready ∧ v21.phase ≠ .fault ∧ failed.phase = .fault ∧
    (asked (.access (.regWrite 8 1)) linearV).pending = [.access (.regWrite 8 1)] ∧
    (asked (.access (.regWrite 28 1)) v21).pending = [.access (.regWrite 28 1)] := by decide +kernel

theorem witness_FaultFreezesBlock :
    failed.phase = .fault ∧ ¬ Request.commands reference 0x01000000 (.access (.regWrite 1 0x01000001)) ∧
    ¬ Request.commands reference 0x01000000 (.bus (.write 4 4 0)) ∧
    ¬ Request.commands reference 0x01000000 (.access (.memWrite .cbmem 0 1)) ∧
    ¬ Request.commands reference 0x01000000 (.access (.regWrite 8 1)) ∧
    Request.commands reference 0x01000000 (.access (.regWrite 1 0x01000000)) ∧
    Request.commands reference 0x01000000 (.bus (.write 4 4 0x01000000)) := by
  decide +kernel

theorem witness_RefusedAccessChangesNothing :
    (served (.regRead 64) linear).reply = .refused ∧ (served (.regWrite 64 1) failed).reply = .refused ∧
    (served (.memRead .cbmem 65536) linear).reply = .refused ∧
    (served (.memWrite .inmem 262144 1) linear).reply = .refused ∧
    (served (.memWrite .lutmem 0 1) linearV).reply = .refused := by decide +kernel

theorem witness_MemoryReadWindows :
    4095 < Config.capacity .biasmem ∧ (served (.memRead .biasmem 4095) failed).reply ≠ .refused ∧
    (served (.memRead .decmem 0) linear).reply = .value 0 ∧ (served (.memRead .decmem 0) v21).reply = .refused ∧
    (served (.memRead .lutmem 3) linearB).reply = .value 0x41000000 ∧ (served (.memRead .lutmem 4) linearB).reply =
        .refused ∧
    (served (.memRead .lutmem 15) imagesS).reply = .value 0xC1100000 ∧
    (served (.memRead .lutmem 16) imagesS).reply = .refused ∧
    (served (.memRead .lutmem 0) linear).reply = .refused := by decide +kernel

theorem witness_ParameterWriteUnbinds :
    (∀ sl, paramSlot sl.space = some sl ∧ linear.bound sl = true ∧ State.reset.bound sl = false) ∧
    linear.phase ≠ .fault ∧ State.reset.phase ≠ .fault ∧ failed.phase = .fault ∧ 65535 < Config.capacity .cbmem ∧
    4095 < Config.capacity .biasmem ∧ 65535 < Config.capacity .idxmem :=
  ⟨fun sl => by cases sl <;> decide +kernel, by decide +kernel, by decide +kernel, by decide +kernel, by decide,
    by decide, by decide⟩

theorem witness_InputAndOutputWrites :
    linearV.phase ≠ .fault ∧ 262143 < Config.capacity .inmem ∧ 262143 < Config.capacity .outmem ∧
    (asked (.access (.memWrite .inmem 262143 1)) linearV).pending = [.access (.memWrite .inmem 262143 1)] ∧
    (asked (.access (.memWrite .outmem 0 1)) linearV).pending = [.access (.memWrite .outmem 0 1)] ∧
    (asked (.access (.memWrite .lutmem 0 1)) failed).pending = [.access (.memWrite .lutmem 0 1)] := by decide +kernel

theorem witness_HostMapInjective : defaultHostMap 0x0703FFFC 4 = some (.element .lutmem 65535) := by decide

theorem witness_BusAccessFollowsHostMap :
    (0x000000FC = 4 * 63 ∧ 63 < 64 ∧ defaultHostMap 0x000000FC 4 = some (.register 63)) ∧
    (0x0103FFFC = 1 * 0x01000000 + 4 * 65535 ∧ 65535 < Config.capacity .cbmem) ∧
    (0x02004000 = 2 * 0x01000000 + 4 * 4096 ∧ Config.capacity .biasmem ≤ 4096) ∧
    (0x07FFFFFC = 7 * 0x01000000 + 4 * 0x3FFFFF ∧ Config.capacity .lutmem ≤ 0x3FFFFF) ∧
    defaultHostMap 0x00FFFFFC 4 = none ∧ defaultHostMap 0x08000000 4 = none ∧ defaultHostMap 0x00000001 4 = none := by
  decide

/-! ### Witnesses: command words -/

theorem witness_DecodeEncodeRoundTrip : Instr.wellFormed (.bind 2) = true ∧ encode (.gacs 4095 4095) = 0x23FFFFFF := by
  decide

theorem witness_DecodedWordIsItsEncoding : decode 0x22000FFF#32 = .ok (.gacb 4095) := by decide

theorem witness_MaskAndMatchSelectCommand :
    0x02000002#32 &&& maskBits (.bind 0) = matchBits (.bind 0) ∧ 0x02000002#32 ≠ 0x02000003#32 ∧
    0x10FFFFFF#32 &&& maskBits (.mulv 0 0) = matchBits (.mulv 0 0) := by decide

theorem witness_IllegalWordsFault :
    linear.phase ≠ .fault ∧ opcField 0x04000000#32 ∉ definedOpcodes ∧ opcField 0xFFFFFFFF#32 ∉ definedOpcodes ∧
    (opcField 0x00000001#32 ∈ definedOpcodes ∧ (∀ i, i.wellFormed = true → encode i ≠ 0x00000001#32)) := by
  refine ⟨by decide +kernel, by decide, by decide, by decide, fun i _ h => ?_⟩
  have h0 := congrArg opcField h
  have h1 := congrArg jField h
  cases i <;> simp only [encode, opcField_assemble, jField_assemble] at h0 h1 <;>
    first | exact absurd h0 (by decide) | exact absurd h1 (by decide)

/-- A legal and an illegal word written to `CMD`, as an access and through the bus. -/
theorem witness_StepRunsDecodedCommand :
    ((linear.submit 0x11000003).pending = .access (.regWrite 1 0x11000003) :: [] ∧
      Request.commands reference 0x11000003 (.access (.regWrite 1 0x11000003)) ∧
      decode 0x11000003#32 = .ok (.mulb 3)) ∧
    ((asked (.bus (.write 4 4 0x04000000)) linear).pending = .bus (.write 4 4 0x04000000) :: [] ∧
      Request.commands reference 0x04000000 (.bus (.write 4 4 0x04000000)) ∧
      decode 0x04000000#32 = .error .reservedOpcode ∧
      (after (step (asked (.bus (.write 4 4 0x04000000)) linear))).errCmd = 0x04000000) ∧
    (exactLinear.submit 0x30000000).pending = .access (.regWrite 1 0x30000000) :: [] ∧
    Request.commands exactParams 0x30000000 (.access (.regWrite 1 0x30000000)) ∧
    decode 0x30000000#32 = .ok .fwdl := by decide +kernel

/-! ### Witnesses: lifecycle, `RESHAPE`, the decoder -/

/-- The clauses about words with a non-zero must-be-zero field (`RESET`, `BIND`, `MULB`, `GACB`, `FWDL`, `FWDS`). -/
theorem witness_illegal_words :
    (opcField 0x01000001#32 = 0x01 ∧ 0x01000001#32 ≠ 0x01000000#32) ∧
    (opcField 0x02001000#32 = 0x02 ∧ rField 0x02001000#32 ≠ 0) ∧
    (opcField 0x02000004#32 = 0x02 ∧ slotPadField 0x02000004#32 ≠ 0) ∧
    (opcField 0x11001000#32 = 0x11 ∧ rField 0x11001000#32 ≠ 0) ∧
    (opcField 0x22800000#32 = 0x22 ∧ rField 0x22800000#32 ≠ 0) ∧
    (opcField 0x30000001#32 = 0x30 ∧ 0x30000001#32 ≠ 0x30000000#32) ∧
    (opcField 0x31800000#32 = 0x31 ∧ 0x31800000#32 ≠ 0x31000000#32) := by decide

theorem witness_BindSetsSlotOrFaults :
    State.reset.phase ≠ .fault ∧ State.reset.cfg.cbLen.toNat = 0 ∧
    Config.capacity .biasmem < ({ v21cfg with biasLen := 4097 }).biasLen.toNat ∧
    Config.capacity .idxmem < ({ v21cfg with idxLen := 65537 }).idxLen.toNat ∧
    0 < ({ v21cfg with cbLen := 1 }).cbLen.toNat ∧
    ({ v21cfg with biasLen := 4096 }).biasLen.toNat ≤ Config.capacity .biasmem ∧
    ({ v21cfg with idxLen := 65536 }).idxLen.toNat ≤ Config.capacity .idxmem := by decide +kernel

/-- The least legal linear and spatial configurations. -/
def least : Cfg :=
  { Cfg.zero with
    wbits := 8, k := 2, m := 1, totalWidth := 1, numOut := 1, cbLen := 2, biasLen := 1, idxLen := 1, batch := 1,
    inWidth := 1 }

def leastSpatial : Cfg :=
  { least with
    mode := 1, inH := 1, inW := 1, kernelH := 1, kernelW := 1, strideH := 1, strideW := 1, dilH := 1, dilW := 1 }

/-- Configurations at the edge of each row of R136 up to the lengths, with the code and info of the row. -/
def reshapeFaults : List (Cfg × Nat × Nat) :=
  [({ least with wbits := 9 }, 0x11, 9), ({ least with k := 0 }, 0x01, 0), ({ least with k := 3 }, 0x01, 3),
   ({ least with k := 1 }, 0x12, 10), ({ least with k := 512 }, 0x11, 8),
   ({ least with k := 131072, wbits := 32 }, 0x15, 8), ({ least with m := 0 }, 0x12, 11),
   ({ least with numOut := 0 }, 0x12, 13), ({ least with batch := 0 }, 0x12, 17),
   ({ least with inWidth := 0 }, 0x12, 18), ({ least with inWidth := 2 }, 0x03, 2),
   ({ least with inWidth := 3, totalWidth := 3, m := 2 }, 0x02, 3),
   ({ leastSpatial with inH := 0 }, 0x12, 19), ({ leastSpatial with inW := 0 }, 0x12, 20),
   ({ leastSpatial with kernelH := 0 }, 0x12, 21), ({ leastSpatial with kernelW := 0 }, 0x12, 22),
   ({ leastSpatial with strideH := 0 }, 0x12, 25), ({ leastSpatial with strideW := 0 }, 0x12, 26),
   ({ leastSpatial with dilH := 0 }, 0x12, 27), ({ leastSpatial with dilW := 0 }, 0x12, 28),
   ({ leastSpatial with kernelH := 2 }, 0x16, 0), ({ leastSpatial with kernelW := 2 }, 0x16, 1),
   ({ least with cbLen := 3 }, 0x13, 2), ({ least with biasLen := 2 }, 0x14, 1),
   ({ least with idxLen := 0 }, 0x04, 1), ({ leastSpatial with idxLen := 2 }, 0x10, 1)]

/-- The same for the capacities, each just past its limit. -/
def capacityFaults : List (Cfg × Nat) :=
  [({ least with totalWidth := 32769, inWidth := 32769, m := 32769, cbLen := 65538 }, 1),
   ({ least with numOut := 4097, biasLen := 4097, idxLen := 513 }, 2),
   ({ least with
      k := 4, totalWidth := 65, inWidth := 65, cbLen := 260, numOut := 4033, biasLen := 4033, idxLen := 65537 }, 3),
   ({ least with batch := 262145 }, 4),
   ({ least with batch := 65, numOut := 4033, biasLen := 4033, idxLen := 505 }, 5),
   ({ leastSpatial with wbits := 32, kernelH := 61681, padH := 30840, numOut := 17, biasLen := 17, idxLen := 32769 }, 6),
   ({ least with batch := 131073 }, 7),
   ({ least with totalWidth := 4097, inWidth := 4097, cbLen := 8194, idxLen := 513 }, 9),
   ({ least with batch := 4097 }, 10)]

/-- The fault record `RESHAPE` leaves from `CONFIGURED`. -/
def reshapeRecord (c : Cfg) : Nat × Nat :=
  let t := run .reshape (configured c [] [] [] [])
  (t.err.toNat, t.errInfo.toNat)

theorem witness_ReshapeFaultsInOrder :
    reshapeFaults.map (fun r => reshapeRecord r.1) = reshapeFaults.map (fun r => r.2) := by decide +kernel

theorem witness_ReshapeFaultsInOrder_capacities :
    capacityFaults.map (fun r => reshapeRecord r.1) = capacityFaults.map (fun r => (0x15, r.2)) := by decide +kernel

/-- The last clause: no row holds, at the limits of 4096 slices and 4096 batch rows, and of V21 and V37. -/
theorem witness_ReshapeFaultsInOrder_passes :
    [{ least with totalWidth := 4096, inWidth := 4096, cbLen := 8192, idxLen := 512 }, { least with batch := 4096 },
      leastSpatial, v21cfg].map (fun c => firstFailing (reshapeChecks reference c)) = [none, none, none, none] ∧
    (run .reshape v21).phase = .ready ∧ (run .reshape v37).phase = .ready := by decide +kernel

theorem witness_ReshapeMakesReady :
    State.reset.phase = .uninit ∧ linear.phase = .ready ∧
    ((configured { least with k := 3 } [] [] [] []).phase = .configured ∧
      firstFailing (reshapeChecks reference { least with k := 3 }) = some ⟨true, .kNotPow2, 3⟩) ∧
    (v21.phase = .configured ∧ firstFailing (reshapeChecks reference v21.cfg) = none ∧ v21.cfg.mode.getLsbD 0 = false) ∧
    (v37.phase = .configured ∧ firstFailing (reshapeChecks reference v37.cfg) = none ∧ v37.cfg.mode.getLsbD 0 = true) := by
  decide +kernel

theorem witness_decoder_statements :
    (1 ≤ 3 ∧ 3 ≤ 8 ∧ (8 * 3 + 8 - 1) / 8 ≤ [0xAB, 0x9C, 0x1C].length) ∧
    decodeCodes [0xAB, 0x9C] 8 3 8 = .error 2 ∧ decodeCodes [0xAB] 3 3 8 = .error 1 ∧
    (6 < 8 ∧ [0xAB, 0x9C].length ≤ 6 * 3 / 8) ∧
    (2 < 3 ∧ [0xAB].length ≤ 2 * 3 / 8 + 1 ∧ 2 * 3 / 8 < [0xAB].length ∧ 8 < 2 * 3 % 8 + 3) ∧
    (∀ w ∈ [0xAB, 0x9C, 0x1C], w < 2 ^ 8) ∧
    decodeCodes [0xAB, 0x9C, 0x1C] 8 3 8 = .ok [5, 2, 7, 1, 6, 0, 3, 4] ∧
    (∀ x ∈ [5, 2, 7, 1, 6, 0, 3, 4], x < 2 ^ 3) ∧ (∀ x ∈ [171, 0, 255], x < 2 ^ 8) :=
  ⟨by decide, rfl, rfl, by decide, by decide, by decide, rfl, by decide, by decide⟩

/-! ### Witnesses: the computing commands -/

/-- The phase clause of every computing command. -/
theorem witness_phase_clauses : v21.phase ≠ .fault ∧ v21.phase ≠ .ready ∧ State.reset.phase ≠ .fault := by
  decide +kernel

/-- The mode clauses: a linear and a spatial `READY` state. -/
theorem witness_mode_clauses :
    linear.phase = .ready ∧ linear.cfg.spatial = false ∧ padded.phase = .ready ∧ padded.cfg.spatial = true ∧
    linear.cfg.mode.getLsbD 0 = false ∧ padded.cfg.mode.getLsbD 0 = true ∧ padded.cfg.mode.getLsbD 1 = true := by
  decide +kernel

/-- The operand clauses of `MULV`, `MULB`, `GACV`, `GACB`: the last legal and the first illegal slice and row. -/
theorem witness_linear_operands :
    (3#12).toNat < linear.derived.numSlices.toNat ∧ linear.derived.numSlices.toNat ≤ (4#12).toNat ∧
    (1#12).toNat < linear.cfg.batch.toNat ∧ linear.cfg.batch.toNat ≤ (2#12).toNat := by decide +kernel

/-- The operand clauses of `MULS`, `GACS`. -/
theorem witness_spatial_operands :
    (0#12).toNat < images.derived.numSlices.toNat ∧ images.derived.numSlices.toNat ≤ (1#12).toNat ∧
    (1#12).toNat < images.cfg.batch.toNat ∧ images.cfg.batch.toNat ≤ (2#12).toNat ∧ images.phase = .ready ∧
    images.cfg.spatial = true := by decide +kernel

/-- The tag clauses of the gathers. -/
theorem witness_tags :
    (linearV.phase = .ready ∧ linearV.lut = ⟨true, .v, 2, 1⟩ ∧ linear.lut ≠ ⟨true, .v, 2, 1⟩) ∧
    (linearB.phase = .ready ∧ linearB.lut = ⟨true, .b, 3, 0⟩ ∧ linearV.lut ≠ ⟨true, .b, 2, 0⟩) ∧
    (imagesS.phase = .ready ∧ imagesS.lut = ⟨true, .s, 0, 1⟩ ∧ imagesS.lut ≠ ⟨true, .s, 0, 0⟩) := by decide +kernel

theorem witness_BatchTableAgreesWithRowTable :
    exec (.mulb 3) linear = .next (run (.mulb 3) linear) ∧
    exec (.mulv 1 3) linear = .next (run (.mulv 1 3) linear) ∧ 1 < linear.cfg.k.toNat :=
  ⟨exec_run _ _, exec_run _ _, by decide +kernel⟩

theorem witness_ExactDotIsSum :
    exactParams.Valid ∧ exactParams.real = exactRationals ∧ exactLinear.Inv ∧ exactLinear.phase = .ready ∧
    exactLinear.cfg.spatial = false ∧ 1 < exactLinear.cfg.batch.toNat ∧ 4 < exactLinear.cfg.numOut.toNat :=
  ⟨exactParams_valid, rfl, exactLinear_inv, by decide +kernel, by decide +kernel, by decide +kernel,
    by decide +kernel⟩

/-- 1 and 2^24, whose sum lies half way between two values; a pair whose product is past the largest finite value;
operands whose sum is 0, of either sign. -/
theorem witness_ArithmeticRoundsToNearest :
    f32Exponent 0x3F800000 ≠ 255 ∧ f32Exponent 0x4B800000 ≠ 255 ∧ f32Exponent 0x4B800001 ≠ 255 ∧
    radd 0x3F800000 0x4B800000 = 0x4B800000 ∧ f32IsInf (rmul 0x7F000000 0x40000000) = true ∧
    f32Exponent 0x7F000000 ≠ 255 ∧ f32Exponent 0x40000000 ≠ 255 ∧
    f32Scaled 0x3F800000 + f32Scaled 0xBF800000 = 0 ∧ f32Scaled 0x80000000 + f32Scaled 0x80000000 = 0 ∧
    f32Exponent 0x80000000 ≠ 255 ∧ f32Scaled 0x3F800000 + f32Scaled 0xC0000000 ≠ 0 := by decide +kernel

theorem witness_InvalidOperationsGiveNaN :
    f32IsNaN 0x7F800001 = true ∧ f32IsInf 0xFF800000 = true ∧ (0x80000000#32).setWidth 31 = 0#31 ∧
    0x7F800000#32 = 0xFF800000#32 ^^^ 0x80000000#32 ∧ f32Exponent 0x7F7FFFFF ≠ 255 ∧
    f32IsNaN 0x00000001 = false ∧ (0x00000001#32).setWidth 31 ≠ 0#31 ∧ f32IsNaN 0x7F800000 = false ∧
    (0x7F800000#32).setWidth 31 ≠ 0#31 := by decide

theorem witness_BiasAddsOnce_without_bias :
    let s : State := { padded with cfg := { v32cfg with mode := 1 } }
    s.phase = .ready ∧ s.cfg.mode.getLsbD 0 = true ∧ s.cfg.mode.getLsbD 1 = false := by decide +kernel

theorem witness_FwdlComputesLinearLayer : linear.Inv ∧ linear.phase = .ready ∧ linear.cfg.spatial = false :=
  ⟨linear_inv, by decide +kernel, by decide +kernel⟩

theorem witness_FwdsComputesConvolution : padded.Inv ∧ padded.phase = .ready ∧ padded.cfg.spatial = true :=
  ⟨padded_inv, by decide +kernel, by decide +kernel⟩

/-- R192: the rows may be interleaved. -/
theorem witness_FwdlEqualsCommandSequence :
    let pairs := [(1, 0), (0, 0), (0, 1), (1, 1), (0, 2), (0, 3), (1, 2), (1, 3)]
    linear.Inv ∧ linear.phase = .ready ∧ linear.cfg.spatial = false ∧ (∀ p ∈ pairs, p.1 < linear.cfg.batch.toNat) ∧
    (∀ r, r < linear.cfg.batch.toNat →
      (pairs.filter fun p => p.1 == r).map Prod.snd = List.range linear.derived.numSlices.toNat) :=
  ⟨linear_inv, by decide +kernel, by decide +kernel, by decide +kernel, by decide +kernel⟩

/-- R193: the images may be taken in another order. -/
theorem witness_FwdsEqualsCommandSequence :
    let pairs := [(1, 0), (0, 0)]
    images.Inv ∧ images.phase = .ready ∧ images.cfg.spatial = true ∧ (∀ p ∈ pairs, p.1 < images.cfg.batch.toNat) ∧
    (∀ n, n < images.cfg.batch.toNat →
      (pairs.filter fun p => p.1 == n).map Prod.snd = List.range images.derived.numSlices.toNat) :=
  ⟨images_inv, by decide +kernel, by decide +kernel, by decide +kernel, by decide +kernel⟩

/-- V32: every tap of output position `(0, 0)` is padding. -/
theorem witness_PaddingOnlyOutputIsBias :
    padded.Inv ∧ exec .fwds padded = .next (run .fwds padded) ∧ 0 < padded.cfg.batch.toNat ∧
    0 < padded.cfg.numOut.toNat ∧ 0 < padded.derived.outH.toNat ∧ 0 < padded.derived.outW.toNat ∧
    ∀ kh kw : Nat, kh < padded.cfg.kernelH.toNat → kw < padded.cfg.kernelW.toNat →
      ((0 : Nat) * padded.cfg.strideH.toNat : Int) + kh * padded.cfg.dilH.toNat - padded.cfg.padH.toNat < 0 := by
  refine ⟨padded_inv, exec_run _ _, by decide +kernel, by decide +kernel, by decide +kernel, by decide +kernel, ?_⟩
  intro kh kw h1 _
  have h2 : padded.cfg.kernelH.toNat = 1 := by decide +kernel
  have h3 : padded.cfg.padH.toNat = 1 := by decide +kernel
  have h4 : kh = 0 := by omega
  subst h4
  rw [h3]
  omega

/-! ### Witnesses: the rules of the whole machine -/

theorem witness_FaultsArePrecise :
    linear.phase ≠ .fault ∧ execWord exec 0x12000000#32 linear = .next (run (.muls 0 0) linear) ∧
    (run (.muls 0 0) linear).phase = .fault := ⟨by decide +kernel, exec_run (.muls 0 0) _, by decide +kernel⟩

theorem witness_ForwardIsAllOrNothing : linear.phase ≠ .fault ∧ padded.phase ≠ .fault := by decide +kernel

theorem witness_CommandsKeepParametersAndInput : exec .reshape v21 = .next linear := exec_run _ _

theorem witness_OnlyReshapeMakesReady :
    (exec .reshape v21 = .next linear ∧ linear.phase = .ready ∧ v21.phase ≠ .ready) ∧
    (exec .reset failed = .next (run .reset failed) ∧ failed.phase = .fault ∧ (run .reset failed).phase ≠ .fault) ∧
    (step (v21.submit 0x03000000) = .next (served (.regWrite 1 0x03000000) v21) ∧
      (served (.regWrite 1 0x03000000) v21).phase = .ready) ∧
    (step (failed.submit 0x01000000) = .next (served (.regWrite 1 0x01000000) failed) ∧
      (served (.regWrite 1 0x01000000) failed).phase ≠ .fault) :=
  ⟨⟨exec_run _ _, by decide +kernel, by decide +kernel⟩, ⟨exec_run _ _, by decide +kernel, by decide +kernel⟩,
    ⟨next_after (by decide +kernel), by decide +kernel⟩, next_after (by decide +kernel), by decide +kernel⟩

theorem witness_TableSurvivesUntilUsed :
    (linearV.phase = .ready ∧ exec .zero linearV = .next (run .zero linearV)) ∧
    (exec (.gacv 1 2) linearV = .next (run (.gacv 1 2) linearV) ∧ (run (.gacv 1 2) linearV).phase = .ready) ∧
    (Request.translate reference (.access (.memWrite .inmem 262143 1)) = some (.memWrite .inmem 262143 1) ∧
      262143 < Config.capacity .inmem ∧ linearV.lut.valid = true ∧
      step (asked (.access (.memWrite .inmem 262143 1)) linearV)
        = .next (served (.memWrite .inmem 262143 1) linearV)) :=
  ⟨⟨by decide +kernel, exec_run _ _⟩, ⟨exec_run _ _, by decide +kernel⟩, rfl, by decide, by decide +kernel,
    next_after (by decide +kernel)⟩

theorem witness_EveryStepHasNextState :
    let s := asked (.access (.regRead 0)) linear
    s.pending = .access (.regRead 0) :: [] ∧ (exactLinear.submit 0x30000000).pending ≠ [] := by decide +kernel

/-- A well-kept state with a valid table, and a step after which there is a valid table: the hypotheses of
`StepKeepsLifecycle`, `StepKeepsReadyPromise`, `ValidTableIsNeverStale`, `StepKeepsMemoriesCanonical` and
`StepKeepsInvariant`, whose invariants are parts of `State.Of.Inv`. -/
theorem witness_step_invariants :
    let s := asked (.access (.regWrite 1 0x10001003)) linearV
    s.Inv ∧ s.phase = .ready ∧ s.lut.valid = true ∧ ∃ t, step s = .next t ∧ t.phase = .ready ∧ t.lut.valid = true :=
  ⟨inv_asked linearV_inv _, by decide +kernel, by decide +kernel,
    served (.regWrite 1 0x10001003) linearV, next_after (by decide +kernel), by decide +kernel, by decide +kernel⟩

/-- The clauses of `StepKeepsInvariant` about any parameters, with the last index of each object of V21 and V37. -/
theorem witness_StepKeepsInvariant :
    (exactParams.Valid ∧ exactLinear.Inv ∧ stepOn exactLinear = .next exactLinear) ∧
    (exactLinear.phase = .ready ∧ exactLinear.cfg.spatial = false ∧ 3 < exactLinear.derived.numSlices.toNat ∧
      1 < exactLinear.cfg.m.toNat ∧ 1 < exactLinear.cfg.k.toNat ∧ 1 < exactLinear.cfg.batch.toNat ∧
      4 < exactLinear.cfg.numOut.toNat ∧ 2 < exactLinear.cfg.idxLen.toNat) ∧
    (firstFailing (reshapeChecks reference v21.cfg) = none ∧ 2 < v21.cfg.idxLen.toNat) ∧
    (images.Inv ∧ images.phase = .ready ∧ images.cfg.spatial = true ∧ 0 < images.derived.numSlices.toNat ∧
      1 < images.cfg.batch.toNat ∧ 1 < images.cfg.numOut.toNat ∧ 0 < images.cfg.kernelH.toNat ∧
      0 < images.cfg.kernelW.toNat ∧ 1 < images.derived.outH.toNat ∧ 1 < images.derived.outW.toNat) :=
  ⟨⟨exactParams_valid, exactLinear_inv, rfl⟩, by decide +kernel, by decide +kernel, images_inv, by decide +kernel⟩

theorem witness_DecodedIndicesBelowK : linear.Inv ∧ linear.phase = .ready ∧ 19 < linear.derived.count.toNat :=
  ⟨linear_inv, by decide +kernel, by decide +kernel⟩


end Sys2Proof.Tests
end

