-- ==== Sys2Proof/Proofs/Scope.lean ====
section
/-! The obligations about parameters and arithmetic (spec/00_scope.md): the default column of R9, and rounding in
binary32 (R11, G2).

Rounding is settled on the integers. `f32Round` cuts `n` at bit `cutAt n p` and keeps the nearest multiple of that unit,
so it is at most half a unit away. Every other finite pattern is at least half a unit away: either its value is another
multiple of the unit, or its exponent is smaller and its value lies below the binade of `n`. -/

namespace Sys2Proof.Machine

/-! ### The default column of R9 -/

/-- A place stands at one offset and one size. -/
theorem defaultHostMap_inj {a b m n : Nat} {place : Place} (ha : defaultHostMap a m = some place)
    (hb : defaultHostMap b n = some place) : a = b ∧ m = n := by
  obtain ⟨rfl, alignedA, namedA⟩ := defaultHostMap_some ha
  obtain ⟨rfl, alignedB, namedB⟩ := defaultHostMap_some hb
  refine ⟨?_, rfl⟩
  rcases namedA with ⟨windowA, rfl⟩ | ⟨sp, windowA, rfl⟩
  · rcases namedB with ⟨windowB, sameRegister⟩ | ⟨sp', -, differ⟩
    · injection sameRegister with sameIndex
      omega
    · cases differ
  · rcases namedB with ⟨-, differ⟩ | ⟨sp', windowB, sameElement⟩
    · cases differ
    · injection sameElement with sameSpace sameIndex
      subst sameSpace
      have sameWindow := windowSpace_inj windowA windowB
      omega

/-- A record with the default column meets R9 where a word comes back from its element (log 16). -/
theorem params_valid_of_default {α : Type} {p : Params α} (hcap : p.capacity = Config.capacity)
    (hbits : p.maxBits = Config.maxBits) (hmap : p.hostMap = defaultHostMap)
    (hword : ∀ w, p.toWord (p.ofWord w) = w) : p.Valid where
  capacity_pos sp := by rw [hcap]; cases sp <;> decide
  capacity_fits sp := by rw [hcap]; cases sp <;> decide
  decCapacity := by rw [hcap]; decide
  lutCapacity := by rw [hcap]; decide
  maxBits_range := by rw [hbits]; decide
  hostMap_injective a a' n n' place := by rw [hmap]; exact defaultHostMap_inj
  toWord_ofWord := hword

/-- In the rational record a word stands as the natural number it is (log 16). -/
theorem rationalParams_toWord_ofWord (initial : Space → Nat → ℚ) (w : Word) :
    (rationalParams initial).toWord ((rationalParams initial).ofWord w) = w := by
  change BitVec.ofInt 32 (w.toNat : ℚ).num = w
  rw [Rat.num_natCast, BitVec.ofInt_natCast, BitVec.ofNat_toNat, BitVec.setWidth_eq]

/-- Settles O12: an accepted offset is fixed by its window and its index, and the two records differ only in their
arithmetic, their elements and their initial contents. -/
theorem hostMapInjective : Obligations.HostMapInjective :=
  ⟨fun _ _ _ _ _ => defaultHostMap_inj, params_valid_of_default rfl rfl rfl fun _ => rfl,
    fun initial => params_valid_of_default rfl rfl rfl (rationalParams_toWord_ofWord initial)⟩

/-! ### The values of binary32 patterns -/

/-- The integer of this sign and magnitude. -/
def withSign (negative : Bool) (n : Nat) : Int := if negative then -(n : Int) else n

@[simp] theorem withSign_true (n : Nat) : withSign true n = -(n : Int) := rfl
@[simp] theorem withSign_false (n : Nat) : withSign false n = n := rfl
@[simp] theorem natAbs_withSign (negative : Bool) (n : Nat) : (withSign negative n).natAbs = n := by
  cases negative <;> simp

theorem f32Scaled_eq_withSign (w : Word) : f32Scaled w = withSign (f32Negative w) (f32Magnitude w) := rfl

@[simp] theorem natAbs_f32Scaled (w : Word) : (f32Scaled w).natAbs = f32Magnitude w := natAbs_withSign _ _

theorem withSign_mul (s t : Bool) (m n : Nat) : withSign s m * withSign t n = withSign (s != t) (m * n) := by
  cases s <;> cases t <;> simp

theorem f32Fraction_lt (w : Word) : f32Fraction w < 2 ^ 23 := (w.extractLsb' 0 23).isLt

/-- Cut by a unit `2^e`, a magnitude is a multiple of the unit or lies, by at least half a unit, below the binade of its
24-bit multiples. The latter takes a unit above the least one, of which every magnitude is a multiple. -/
theorem f32Magnitude_multiple_or_below (w : Word) (e : Nat) :
    2 ^ e ∣ f32Magnitude w ∨ 0 < e ∧ 2 * f32Magnitude w + 2 ^ e ≤ 2 ^ 24 * 2 ^ e := by
  have hf := f32Fraction_lt w
  unfold f32Magnitude
  split
  · cases e with
    | zero => exact .inl (one_dvd _)
    | succ e =>
      have := Nat.two_pow_pos e
      rw [pow_succ]
      omega
  · by_cases he : e ≤ f32Exponent w - 1
    · exact .inl (Dvd.dvd.mul_left (pow_dvd_pow 2 he) _)
    · have hpow : 2 * 2 ^ (f32Exponent w - 1) ≤ 2 ^ e := by
        rw [← pow_succ']
        exact Nat.pow_le_pow_right (by decide) (by omega)
      have hmul := Nat.mul_le_mul_right (2 ^ (f32Exponent w - 1)) (show 2 ^ 23 + f32Fraction w ≤ 2 ^ 24 - 1 by omega)
      omega

/-- The magnitude of a pattern assembled from an exponent `e` of the last kept bit and a significand `q`. The
significand may have carried into a 25th bit. -/
theorem f32Magnitude_signed (negative : Bool) {e q : Nat} (hlow : e * 2 ^ 23 + q < 2 ^ 31) (hq : q ≤ 2 ^ 24)
    (normal : e = 0 ∨ 2 ^ 23 ≤ q) : f32Magnitude (f32Signed negative (e * 2 ^ 23 + q)) = q * 2 ^ e := by
  rw [f32Magnitude, f32Exponent_signed _ _ hlow, f32Fraction_signed _ _ hlow]
  have hq' : q < 2 ^ 23 ∨ 2 ^ 23 ≤ q ∧ q < 2 ^ 24 ∨ q = 2 ^ 24 := by omega
  rcases hq' with subnormal | ⟨lo, hi⟩ | rfl
  · obtain rfl : e = 0 := by omega
    rw [if_pos (by omega)]
    omega
  · rw [if_neg (by omega), show (e * 2 ^ 23 + q) / 2 ^ 23 - 1 = e by omega,
      show 2 ^ 23 + (e * 2 ^ 23 + q) % 2 ^ 23 = q by omega]
  · rw [if_neg (by omega), show (e * 2 ^ 23 + 2 ^ 24) / 2 ^ 23 - 1 = e + 1 by omega,
      show 2 ^ 23 + (e * 2 ^ 23 + 2 ^ 24) % 2 ^ 23 = 2 ^ 23 by omega]
    ring

/-- An assembled pattern up to the infinity is no NaN, and is the infinity only there. -/
theorem f32Class_signed (negative : Bool) {low : Nat} (h : low ≤ 255 * 2 ^ 23) :
    f32IsNaN (f32Signed negative low) = false ∧
      (f32IsInf (f32Signed negative low) = true ↔ low = 255 * 2 ^ 23) := by
  have hlow : low < 2 ^ 31 := by omega
  simp only [f32IsNaN, f32IsInf, f32Exponent_signed _ _ hlow, f32Fraction_signed _ _ hlow, Bool.and_eq_false_iff,
    Bool.and_eq_true, beq_iff_eq, beq_eq_false_iff_ne, bne_eq_false_iff_eq]
  omega

/-! ### Rounding -/

/-- The place of the last bit that `f32Round` keeps of `n`, which counts units of `2^-(149 + p)`. -/
def cutAt (n p : Nat) : Nat := max p (n.log2 - 23)

/-- The lower 31 bits that `f32Round` assembles, before the infinity bounds them. -/
def roundedBits (n p : Nat) : Nat := (cutAt n p - p) * 2 ^ 23 + roundTiesEven n (cutAt n p)

theorem f32Round_eq (negative : Bool) (n p : Nat) :
    f32Round negative n p = f32Signed negative (min (roundedBits n p) (255 * 2 ^ 23)) := rfl

theorem le_cutAt (n p : Nat) : p ≤ cutAt n p := Nat.le_max_left _ _

theorem two_pow_cutAt (n p : Nat) : 2 ^ cutAt n p = 2 ^ (cutAt n p - p) * 2 ^ p := by
  rw [← pow_add, Nat.sub_add_cancel (le_cutAt n p)]

/-- `f32Round_shape`, in the terms of `cutAt`. -/
theorem cutAt_shape (n p : Nat) :
    roundTiesEven n (cutAt n p) ≤ 2 ^ 24 ∧ n < 2 ^ 24 * 2 ^ cutAt n p ∧
      (cutAt n p = p ∨
        p < cutAt n p ∧ 2 ^ 23 ≤ roundTiesEven n (cutAt n p) ∧ 2 ^ 23 * 2 ^ cutAt n p ≤ n) := by
  rcases f32Round_shape n p with ⟨same, hq, hn⟩ | ⟨above, lo, hq, hlo, hn⟩
  · exact ⟨hq, hn, .inl same⟩
  · exact ⟨hq, hn, .inr ⟨above, lo, hlo⟩⟩

@[simp] theorem f32Negative_round (negative : Bool) (n p : Nat) : f32Negative (f32Round negative n p) = negative :=
  f32Negative_signed _ _ (by omega)

theorem f32IsNaN_round (negative : Bool) (n p : Nat) : f32IsNaN (f32Round negative n p) = false :=
  (f32Class_signed negative (Nat.min_le_right _ _)).1

theorem f32IsInf_round (negative : Bool) (n p : Nat) :
    f32IsInf (f32Round negative n p) = true ↔ 255 * 2 ^ 23 ≤ roundedBits n p :=
  (f32Class_signed negative (Nat.min_le_right _ _)).2.trans min_eq_right_iff

/-- Overflow starts half a unit past the largest finite magnitude: 253 is the exponent of the last bit there, and its
significand `2^24 - 1` is odd, so the tie goes up. -/
theorem roundedBits_overflow_iff (n p : Nat) :
    255 * 2 ^ 23 ≤ roundedBits n p ↔ (2 ^ 25 - 1) * 2 ^ 252 * 2 ^ p ≤ n := by
  obtain ⟨hq, hn, hcut⟩ := cutAt_shape n p
  obtain ⟨upper, lower, -, tie⟩ := roundTiesEven_spec n (cutAt n p)
  have hpow := two_pow_cutAt n p
  unfold roundedBits
  generalize roundTiesEven n (cutAt n p) = q at *
  generalize hp : 2 ^ p = unit at *
  obtain small | top | large : cutAt n p - p ≤ 252 ∨ cutAt n p - p = 253 ∨ 254 ≤ cutAt n p - p := by omega
  · have := Nat.mul_le_mul_right unit (Nat.pow_le_pow_right (show 0 < 2 by decide) small)
    omega
  · rw [top] at hpow ⊢
    obtain carried | odd | below : q = 2 ^ 24 ∨ q = 2 ^ 24 - 1 ∨ q ≤ 2 ^ 24 - 2 := by omega
    · subst carried
      omega
    · subst odd
      omega
    · have := Nat.mul_le_mul_right (2 ^ cutAt n p) below
      omega
  · have := Nat.mul_le_mul_right unit (Nat.pow_le_pow_right (show 0 < 2 by decide) large)
    omega

/-- A finite result has the rounded multiple of the unit as its value. -/
theorem f32Scaled_round {negative : Bool} {n p : Nat} (finite : roundedBits n p < 255 * 2 ^ 23) :
    f32Scaled (f32Round negative n p) * (2 ^ p : Nat) =
      withSign negative (roundTiesEven n (cutAt n p)) * (2 ^ cutAt n p : Nat) := by
  obtain ⟨hq, -, hcut⟩ := cutAt_shape n p
  rw [f32Scaled_eq_withSign, f32Negative_round, f32Round_eq, Nat.min_eq_left finite.le, roundedBits,
    f32Magnitude_signed negative (by unfold roundedBits at finite; omega) hq (by omega), two_pow_cutAt n p]
  cases negative <;> push_cast [withSign_true, withSign_false] <;> ring

theorem getLsbD_zero_round {negative : Bool} {n p : Nat} (finite : roundedBits n p < 255 * 2 ^ 23)
    (even : roundTiesEven n (cutAt n p) % 2 = 0) : (f32Round negative n p).getLsbD 0 = false := by
  rw [f32Round_eq, Nat.min_eq_left finite.le, getLsbD_zero_signed _ _ (by omega), decide_eq_false_iff_not,
    roundedBits]
  omega

/-- The kept multiple is within half a unit of the exact value, and even where it is half a unit away. -/
theorem withSign_roundTiesEven (negative : Bool) (n sh : Nat) :
    let miss := (withSign negative (roundTiesEven n sh) * (2 ^ sh : Nat) - withSign negative n).natAbs
    2 * miss ≤ 2 ^ sh ∧ (2 * miss = 2 ^ sh → roundTiesEven n sh % 2 = 0) := by
  obtain ⟨upper, lower, tieUp, tieDown⟩ := roundTiesEven_spec n sh
  generalize roundTiesEven n sh = q at *
  have hsign : (withSign negative q * (2 ^ sh : Nat) - withSign negative n).natAbs
      = ((q * 2 ^ sh : Nat) - n : Int).natAbs := by
    cases negative with
    | true =>
      simp only [withSign_true, Int.neg_mul, Nat.cast_mul]
      omega
    | false => simp only [withSign_false, Nat.cast_mul]
  simp only [hsign]
  omega

/-- Two multiples of `u` cannot both be less than half of it away from one value. -/
theorem half_le_of_other_multiple {u : Nat} {k m x : Int} (near : 2 * (k * u - x).natAbs ≤ u) (other : m ≠ k) :
    u ≤ 2 * (m * u - x).natAbs := by
  have apart : u ≤ (m * u - k * u).natAbs := by
    rw [← Int.sub_mul, Int.natAbs_mul, Int.natAbs_natCast]
    exact Nat.le_mul_of_pos_left u (by omega)
  omega

/-- Every finite value is the rounded one or at least half a unit away from the exact value. -/
theorem eq_or_half_unit_away (negative : Bool) (n p : Nat) (c : Word) :
    f32Scaled c * (2 ^ p : Nat) = withSign negative (roundTiesEven n (cutAt n p)) * (2 ^ cutAt n p : Nat) ∨
      2 ^ cutAt n p ≤ 2 * (f32Scaled c * (2 ^ p : Nat) - withSign negative n).natAbs := by
  obtain ⟨near, -⟩ := withSign_roundTiesEven negative n (cutAt n p)
  obtain ⟨-, -, hcut⟩ := cutAt_shape n p
  have hpow := two_pow_cutAt n p
  rcases f32Magnitude_multiple_or_below c (cutAt n p - p) with multiple | ⟨hcutAbove, below⟩
  · obtain ⟨m, hm⟩ : ((2 ^ (cutAt n p - p) : Nat) : Int) ∣ f32Scaled c := by
      rwa [Int.natCast_dvd, natAbs_f32Scaled]
    have hvalue : f32Scaled c * (2 ^ p : Nat) = m * (2 ^ cutAt n p : Nat) := by
      rw [hm, hpow, Nat.cast_mul]
      ring
    rw [hvalue]
    by_cases same : m = withSign negative (roundTiesEven n (cutAt n p))
    · exact .inl (by rw [same])
    · exact .inr (half_le_of_other_multiple near same)
  · have hsize : (f32Scaled c * (2 ^ p : Nat)).natAbs = f32Magnitude c * 2 ^ p := by
      rw [Int.natAbs_mul, natAbs_f32Scaled, Int.natAbs_natCast]
    have hbelow := Nat.mul_le_mul_right (2 ^ p) below
    rw [Nat.add_mul, Nat.mul_assoc 2, Nat.mul_assoc (2 ^ 24), ← hpow] at hbelow
    have hexact := natAbs_withSign negative n
    exact .inr (by omega)

/-- What `Obligations.ArithmeticRoundsToNearest` asks of a result `r`: no finite value `c` is nearer to `exact`,
which counts units of `2^-149 / scale`. -/
def IsNearest (c r : Word) (scale : Nat) (exact : Int) : Prop :=
  f32IsNaN r = false ∧
    (f32IsInf r = true ↔ (2 ^ 25 - 1) * 2 ^ 252 * scale ≤ exact.natAbs) ∧
    (f32IsInf r = false →
      (f32Scaled r * scale - exact).natAbs ≤ (f32Scaled c * scale - exact).natAbs ∧
      ((f32Scaled r * scale - exact).natAbs = (f32Scaled c * scale - exact).natAbs →
        f32Scaled c ≠ f32Scaled r → r.getLsbD 0 = false))

theorem f32Round_isNearest (negative : Bool) (n p : Nat) (c : Word) :
    IsNearest c (f32Round negative n p) (2 ^ p) (withSign negative n) := by
  refine ⟨f32IsNaN_round _ _ _, ?_, fun notInf => ?_⟩
  · rw [f32IsInf_round, natAbs_withSign]
    exact roundedBits_overflow_iff n p
  · have finite : roundedBits n p < 255 * 2 ^ 23 := by
      rw [← Nat.not_le, ← f32IsInf_round negative, notInf]
      decide
    obtain ⟨near, tieEven⟩ := withSign_roundTiesEven negative n (cutAt n p)
    have hr := f32Scaled_round (negative := negative) finite
    rw [← hr] at near tieEven
    rcases eq_or_half_unit_away negative n p c with same | away
    · rw [same, ← hr]
      refine ⟨le_rfl, fun _ differ => absurd ?_ differ⟩
      rw [← hr] at same
      exact Int.eq_of_mul_eq_mul_right (by positivity) same
    · exact ⟨by omega, fun tie _ => getLsbD_zero_round finite (tieEven (by omega))⟩

theorem withSign_natAbs (z : Int) : withSign (decide (z < 0)) z.natAbs = z := by
  unfold withSign
  split
  · next negative =>
    have := of_decide_eq_true negative
    omega
  · next nonnegative =>
    have := not_lt.mp (of_decide_eq_false (eq_false_of_ne_true nonnegative))
    omega

/-- The sign that the sum of two finite operands has: that of the exact value, and for an exact zero the common sign. -/
def sumNegative (a b : Word) : Bool :=
  if f32Scaled a + f32Scaled b = 0 then f32Negative a && f32Negative b else decide (f32Scaled a + f32Scaled b < 0)

theorem withSign_sumNegative (a b : Word) :
    withSign (sumNegative a b) (f32Scaled a + f32Scaled b).natAbs = f32Scaled a + f32Scaled b := by
  unfold sumNegative
  split
  · next zero => cases f32Negative a && f32Negative b <;> simp [zero]
  · exact withSign_natAbs _

/-- An exact zero is rounded like any other value. -/
theorem f32Round_zero (negative : Bool) : f32Round negative 0 0 = f32Signed negative 0 := rfl

theorem radd_eq_round {a b : Word} (ha : f32Exponent a ≠ 255) (hb : f32Exponent b ≠ 255) :
    radd a b = f32Round (sumNegative a b) (f32Scaled a + f32Scaled b).natAbs 0 := by
  rw [radd_finite a b ha hb, sumNegative]
  split
  · next zero => rw [zero, Int.natAbs_zero, f32Round_zero]
  · rfl

/-- Settles O35: both results are a rounding of the exact value with its sign, and a rounding is nearest. -/
theorem arithmeticRoundsToNearest : Obligations.ArithmeticRoundsToNearest := by
  intro a b c ha hb _ sum product
  have hsum := radd_eq_round ha hb
  have hproduct := rmul_finite a b ha hb
  refine ⟨?_, ?_, fun nonzero => ?_, fun zero => ?_, ?_⟩
  · have h := f32Round_isNearest (sumNegative a b) sum.natAbs 0 c
    rwa [withSign_sumNegative, ← hsum] at h
  · have h := f32Round_isNearest (f32Negative a != f32Negative b) (f32Magnitude a * f32Magnitude b) 149 c
    rwa [← withSign_mul, ← hproduct] at h
  · rw [hsum, f32Negative_round, sumNegative, if_neg nonzero]
  · rw [radd_finite a b ha hb, if_pos zero]
    cases f32Negative a && f32Negative b <;> rfl
  · rw [hproduct, f32Negative_round]

end Sys2Proof.Machine
end

/-! The obligations about the state (spec/10_state.md): the register file, the lifecycle, and what every step keeps.

What a step can do is said once, in `StepRule`: a property of the next state follows from one proof for each part of a
step that changes the block. The invariant of a well-kept state is kept part by part, each with that rule. -/

namespace Sys2Proof.Machine

variable {α : Type} {p : Params α}

/-! ### What each part of a step does -/

theorem bound_of_allBound {s : State.Of p} (h : s.allBound = true) (sl : Slot) : s.bound sl = true := by
  simp only [State.Of.allBound, Bool.and_eq_true] at h
  obtain ⟨⟨hcb, hbias⟩, hidx⟩ := h
  cases sl <;> assumption

theorem allBound_eq_false {s : State.Of p} {sl : Slot} (h : s.bound sl = false) : s.allBound = false := by
  by_contra hall
  rw [bound_of_allBound (by simpa using hall) sl] at h
  cases h

theorem allBound_setBound_true {s : State.Of p} (sl : Slot) (h : s.allBound = true) :
    (s.setBound sl true).allBound = true := by
  simp only [State.Of.allBound, Bool.and_eq_true] at h ⊢
  obtain ⟨⟨hcb, hbias⟩, hidx⟩ := h
  cases sl <;> simp [State.Of.setBound, hcb, hbias, hidx]

theorem paramSlot_eq_some {sp : Space} {slot : Slot} (h : paramSlot sp = some slot) : sp = slot.space := by
  cases sp <;> cases h <;> rfl

/-- R30 outside `FAULT`, by phase. -/
theorem writeCfg_cases (c : Cfg) {s : State.Of p} (h : s.phase ≠ .fault) :
    (s.phase = .ready ∧ writeCfg c s = { s.leaveReady .configured with cfg := c }) ∨
    (s.phase ≠ .ready ∧ writeCfg c s = { s.dropTable with cfg := c }) := by
  by_cases ready : s.phase = .ready
  · exact .inl ⟨ready, by rw [writeCfg, if_neg h, if_pos ready]⟩
  · exact .inr ⟨ready, by rw [writeCfg, if_neg h, if_neg ready]⟩

theorem writeCfg_inFault (c : Cfg) {s : State.Of p} (h : s.phase = .fault) : writeCfg c s = s := if_pos h

theorem writeElem_inFault (sp : Space) (i : Nat) (v : α) {s : State.Of p} (h : s.phase = .fault) :
    writeElem sp i v s = s := if_pos h

/-- R68, R69 outside `FAULT`: a parameter element whose slot is bound, one whose slot is not, an input element, an
output element. -/
theorem writeElem_cases {sp : Space} {i : Nat} (v : α) {s : State.Of p} (h : s.phase ≠ .fault)
    (hw : writable p sp i = true) :
    (∃ slot : Slot, sp = slot.space ∧ s.bound slot = true ∧
      writeElem sp i v s = ((s.setElem sp i v).setBound slot false).leaveReady .uninit) ∨
    (∃ slot : Slot, sp = slot.space ∧ s.bound slot = false ∧ writeElem sp i v s = s.setElem sp i v) ∨
    (sp = .inmem ∧ writeElem sp i v s = (s.setElem sp i v).dropTable) ∨
    (sp = .outmem ∧ writeElem sp i v s = s.setElem sp i v) := by
  simp only [writeElem, if_neg h]
  cases slot : paramSlot sp with
  | some slot' =>
    have space := paramSlot_eq_some slot
    cases bound : s.bound slot'
    · exact .inr (.inl ⟨slot', space, bound, by simp [bound]⟩)
    · exact .inl ⟨slot', space, bound, by simp [bound]⟩
  | none =>
    cases sp <;> simp [paramSlot, writable] at slot hw ⊢

theorem lt_capacity_of_writable {sp : Space} {i : Nat} (h : writable p sp i = true) : i < p.capacity sp := by
  simp only [writable, Bool.and_eq_true, decide_eq_true_eq] at h
  exact h.1

/-- R112: `BIND` changes the bound flags and the phase only. -/
theorem bindEffect_frame (slot : BitVec 2) (s : State.Of p) : ∃ f b0 b1 b2,
    bindEffect slot s = { s with phase := f, boundCb := b0, boundBias := b1, boundIdx := b2 } := by
  unfold bindEffect
  split
  · exact ⟨_, _, _, _, rfl⟩
  · rename_i sl _
    cases sl <;> dsimp only <;> split <;> exact ⟨_, _, _, _, rfl⟩

/-- R112: a binding that does not leave `UNINIT`, and the one that does. -/
theorem bindEffect_cases (slot : BitVec 2) (s : State.Of p) :
    bindEffect slot s = s ∨ ∃ sl : Slot,
      (bindEffect slot s = s.setBound sl true ∧ ¬ (s.phase = .uninit ∧ (s.setBound sl true).allBound = true)) ∨
      (bindEffect slot s = { s.setBound sl true with phase := .configured } ∧
        s.phase = .uninit ∧ (s.setBound sl true).allBound = true) := by
  unfold bindEffect
  split
  · exact .inl rfl
  · rename_i sl _
    refine .inr ⟨sl, ?_⟩
    simp only [setBound_phase]
    split
    · next complete => exact .inr ⟨rfl, complete⟩
    · next incomplete => exact .inl ⟨rfl, incomplete⟩

theorem SameInputs.exists_eq {s t : State.Of p} (h : SameInputs s t) :
    ∃ out tag table, t = { s with outmem := out, lut := tag, lutmem := table } := ⟨_, _, _, h⟩

/-! ### The commands that compute, and `RESHAPE` -/

/-- A command of the multiplier, the gather-accumulator or the forward pass, as against the lifecycle commands. -/
def Computes (i : Instr) : Prop := i ≠ .nop ∧ i ≠ .reset ∧ (∀ slot, i ≠ .bind slot) ∧ i ≠ .reshape

theorem lifecycle_or_computes (i : Instr) :
    i = .nop ∨ i = .reset ∨ (∃ slot, i = .bind slot) ∨ i = .reshape ∨ Computes i := by
  cases i <;> simp [Computes]

theorem Computes.sameInputs {i : Instr} (h : Computes i) (s : State.Of p) : SameInputs s (commandEffect i s) :=
  commandEffect_sameInputs s h.2.1 h.2.2.1 h.2.2.2

/-- R98 step 4 of these commands. -/
theorem Computes.ready {i : Instr} (h : Computes i) {s : State.Of p}
    (passed : firstFailing (commandChecks i s) = none) : s.phase = .ready := by
  obtain ⟨h1, h2, h3, h4⟩ := h
  refine ready_of_checks ?_ passed
  cases i with
  | nop => exact absurd rfl h1
  | reset => exact absurd rfl h2
  | bind slot => exact absurd rfl (h3 slot)
  | reshape => exact absurd rfl h4
  | _ => exact List.mem_cons_self

/-- The checks of a `RESHAPE` that has an effect (R98 step 4, R136, R137). -/
theorem reshape_passed {s : State.Of p} (passed : firstFailing (reshapeCommandChecks s) = none) :
    s.phase = .ready ∨ s.phase = .configured ∧ firstFailing (reshapeChecks p s.cfg) = none ∧
      ∃ codes, s.decoded = .ok codes := by
  rw [reshapeCommandChecks, firstFailing_cons] at passed
  by_cases ready : s.phase = .ready
  · exact .inl ready
  · right
    have configured : s.phase = .configured := by
      by_contra other
      simp [phaseCheck, ready, other] at passed
    simp [phaseCheck, configured, firstFailing_append, decodeCheck] at passed
    obtain ⟨checks, decodes⟩ := passed
    refine ⟨configured, checks, ?_⟩
    cases decoded : s.decoded with
    | ok codes => exact ⟨codes, rfl⟩
    | error q => simp [decoded] at decodes

/-! ### One rule for what a step keeps -/

/-- What each part of a step does between `I` and `J`: `I` is about the block and not about the bus, it is enough for
`J`, and each part that changes the block (a write, a fault, a command whose checks have passed) leads from `I` to
`J`. -/
structure StepRule (I J : State.Of p → Prop) : Prop where
  idle : ∀ s, I s → J s
  bus : ∀ s rest r, I s → I (s.served rest r)
  config : ∀ s c, I s → s.phase ≠ .fault → J (writeCfg c s)
  element : ∀ s sp i v, I s → s.phase ≠ .fault → writable p sp i = true → J (writeElem sp i v s)
  fault : ∀ s e info c, I s → s.phase ≠ .fault → J (raiseFault e info c s)
  reset : ∀ s, I s → J (resetRegisters s)
  bind : ∀ s slot, I s → s.phase ≠ .fault → J (bindEffect slot s)
  rebuild : ∀ s codes, I s → s.phase = .configured → firstFailing (reshapeChecks p s.cfg) = none →
    s.decoded = .ok codes → J (rebuild s)
  compute : ∀ s i, I s → Computes i → s.phase = .ready → firstFailing (commandChecks i s) = none →
    J (commandEffect i s)

theorem StepRule.reshape {I J : State.Of p → Prop} (rule : StepRule I J) {s : State.Of p} (h : I s)
    (passed : firstFailing (reshapeCommandChecks s) = none) : J (reshapeEffect s) := by
  rw [reshapeEffect]
  split
  · exact rule.idle s h
  · next unready =>
    rcases reshape_passed passed with ready | ⟨configured, checks, codes, decoded⟩
    · exact absurd ready unready
    · exact rule.rebuild s codes h configured checks decoded

theorem StepRule.command {I J : State.Of p → Prop} (rule : StepRule I J) {i : Instr} {s t : State.Of p} (h : I s)
    (ht : execOn i s = .next t) : J t := by
  rcases execOn_cases ht with ⟨-, rfl⟩ | ⟨-, rfl⟩ | ⟨-, active, k, -, rfl⟩ | ⟨notReset, active, passed, rfl⟩
  · exact rule.reset s h
  · exact rule.idle _ h
  · exact rule.fault s _ _ _ h active
  · rcases lifecycle_or_computes i with rfl | rfl | ⟨slot, rfl⟩ | rfl | computes
    · exact rule.idle s h
    · exact absurd rfl notReset
    · exact rule.bind s slot h active
    · exact rule.reshape h passed
    · exact rule.compute s i h computes (computes.ready passed) passed

theorem StepRule.step {I J : State.Of p → Prop} (rule : StepRule I J) {s t : State.Of p} (h : I s)
    (ht : stepOn s = .next t) : J t := by
  rcases serveNext_cases ht with rfl | ⟨q, rest, -, parts⟩
  · exact rule.idle _ h
  · have accepted := rule.bus s rest .accepted h
    rcases parts with ⟨r, rfl⟩ | ⟨n, v, c, -, -, rfl⟩ | ⟨sp, i, v, -, hw, rfl⟩ | ⟨c, i, -, -, hi⟩ |
      ⟨c, e, -, -, active, rfl⟩
    · exact rule.idle _ (rule.bus s rest r h)
    · by_cases active : (s.served rest .accepted).phase = .fault
      · rw [writeCfg_inFault c active]
        exact rule.idle _ accepted
      · exact rule.config _ c accepted active
    · by_cases active : (s.served rest .accepted).phase = .fault
      · rw [writeElem_inFault sp i v active]
        exact rule.idle _ accepted
      · exact rule.element _ sp i v accepted active hw
    · exact rule.command accepted hi
    · exact rule.fault _ _ _ _ accepted active

/-! ### Which commands build a table -/

/-- The lookup cache is as it was, or it is empty. -/
def KeepsOrDropsTable (s t : State.Of p) : Prop :=
  (t.lut = s.lut ∧ t.lutmem = s.lutmem) ∨ (t.lut = LutTag.empty ∧ t.lutmem = [])

theorem KeepsOrDropsTable.refl (s : State.Of p) : KeepsOrDropsTable s s := .inl ⟨rfl, rfl⟩

theorem KeepsOrDropsTable.trans {s t u : State.Of p} (h : KeepsOrDropsTable s t) (g : KeepsOrDropsTable t u) :
    KeepsOrDropsTable s u := by
  rcases g with ⟨tag, table⟩ | dropped
  · rcases h with ⟨tag', table'⟩ | dropped'
    · exact .inl ⟨tag.trans tag', table.trans table'⟩
    · exact .inr ⟨tag.trans dropped'.1, table.trans dropped'.2⟩
  · exact .inr dropped

theorem KeepsOrDropsTable.foldl {β : Type} {f : State.Of p → β → State.Of p}
    (hf : ∀ s a, KeepsOrDropsTable s (f s a)) (l : List β) (s : State.Of p) :
    KeepsOrDropsTable s (l.foldl f s) :=
  List.foldlRecOn l f (KeepsOrDropsTable.refl s) fun t ht a _ => ht.trans (hf t a)

theorem keepsOrDropsTable_spatialImage (s : State.Of p) (n : Nat) : KeepsOrDropsTable s (spatialImage s n) :=
  .foldl (fun _ _ => .inr ⟨rfl, rfl⟩) _ _

/-- Every command but the multiplier's keeps the table with its tag or drops it (R26, R241). -/
theorem commandEffect_table_cases (i : Instr) (s : State.Of p) :
    KeepsOrDropsTable s (commandEffect i s) ∨ (∃ r j, i = .mulv r j) ∨ (∃ j, i = .mulb j) ∨ ∃ n j, i = .muls n j := by
  cases i with
  | mulv r j => exact .inr (.inl ⟨r, j, rfl⟩)
  | mulb j => exact .inr (.inr (.inl ⟨j, rfl⟩))
  | muls n j => exact .inr (.inr (.inr ⟨n, j, rfl⟩))
  | nop => exact .inl (.refl s)
  | reset => exact .inl (.inr ⟨rfl, rfl⟩)
  | bind slot =>
    obtain ⟨f, b0, b1, b2, eq⟩ := bindEffect_frame slot s
    exact .inl (.inl ⟨by rw [commandEffect, eq], by rw [commandEffect, eq]⟩)
  | reshape =>
    simp only [commandEffect, reshapeEffect]
    split
    · exact .inl (.refl s)
    · exact .inl (.inr ⟨rfl, rfl⟩)
  | zero => exact .inl (.inl ⟨rfl, rfl⟩)
  | gacv r j => exact .inl (.inr ⟨rfl, rfl⟩)
  | gacb j => exact .inl (.inr ⟨rfl, rfl⟩)
  | gacs n j => exact .inl (.inr ⟨rfl, rfl⟩)
  | bias => exact .inl (.inl ⟨rfl, rfl⟩)
  | fwdl =>
    have slices : KeepsOrDropsTable s ((List.range s.derived.numSlices.toNat).foldl linearSlice (zeroEffect s)) :=
      .trans (.inl ⟨rfl, rfl⟩) (.foldl (fun _ _ => .inr ⟨rfl, rfl⟩) _ _)
    exact .inl (slices.trans (.inl ⟨rfl, rfl⟩))
  | fwds =>
    have images : KeepsOrDropsTable s ((List.range s.cfg.batch.toNat).foldl spatialImage (zeroEffect s)) :=
      .trans (.inl ⟨rfl, rfl⟩) (.foldl keepsOrDropsTable_spatialImage _ _)
    exact .inl (images.trans (.inl ⟨rfl, rfl⟩))

/-! ### What a check that passes says -/

@[simp] theorem modeCheck_passes (s : State.Of p) (spatial : Bool) :
    (modeCheck s spatial).fails = false ↔ s.cfg.spatial = spatial := by simp [modeCheck]

@[simp] theorem sliceCheck_passes (s : State.Of p) (j : BitVec 12) :
    (sliceCheck s j).fails = false ↔ j.toNat < s.derived.numSlices.toNat := by simp [sliceCheck]

@[simp] theorem rowCheck_passes (s : State.Of p) (r : BitVec 12) :
    (rowCheck s r).fails = false ↔ r.toNat < s.cfg.batch.toNat := by simp [rowCheck]

/-! ### The lifecycle (R45 items 1 to 4 and 6, R26) -/

/-- The registers that the lifecycle is about, the tag aside, are as they were. -/
structure SameControl (s t : State.Of p) : Prop where
  phase : t.phase = s.phase
  allBound : t.allBound = s.allBound
  err : t.err = s.err
  errInfo : t.errInfo = s.errInfo
  errCmd : t.errCmd = s.errCmd
  derived : t.derived = s.derived

theorem SameInputs.control {s t : State.Of p} (h : SameInputs s t) : SameControl s t := by
  obtain ⟨out, tag, table, rfl⟩ := h.exists_eq
  exact ⟨rfl, rfl, rfl, rfl, rfl, rfl⟩

theorem sameControl_setElem (s : State.Of p) (sp : Space) (i : Nat) (v : α) : SameControl s (s.setElem sp i v) := by
  constructor <;> simp [State.Of.setElem, State.Of.allBound]

/-- The tag may stay, be dropped, or be that of a table built in `READY`. -/
theorem State.Of.Lifecycle.of_sameControl {s t : State.Of p} (h : s.Lifecycle) (same : SameControl s t)
    (tag : t.lut = s.lut ∨ t.lut = LutTag.empty ∨ t.lut.valid = true ∧ s.phase = .ready) : t.Lifecycle := by
  obtain ⟨phase, allBound, err, errInfo, errCmd, derived⟩ := same
  have tablePhase : t.lut.valid = true → t.phase = .ready ∨ t.phase = .fault := by
    rw [phase]
    rcases tag with same | dropped | ⟨-, ready⟩
    · rw [same]; exact h.table_phase
    · rw [dropped]; exact nofun
    · exact fun _ => .inl ready
  refine ⟨phase ▸ h.not_reshaped, ?_, ?_, ?_, tablePhase, fun idle => ⟨?_, ?_⟩, fun invalid => ?_⟩
  · rw [phase, allBound]; exact h.uninit_iff
  · rw [phase, err]; exact h.err_iff
  · rw [phase, errInfo, errCmd]; exact h.record_clear
  · rw [derived]; exact (h.not_ready_clear (phase ▸ idle)).1
  · rw [← Bool.not_eq_true]
    intro valid
    rcases tablePhase valid with at_ | at_ <;> simp [at_] at idle
  · rcases tag with same | dropped | ⟨valid, -⟩
    · rw [same] at invalid ⊢; exact h.tag_clear invalid
    · exact dropped
    · rw [valid] at invalid; cases invalid

/-- A block that has just left `READY` or `UNINIT` with no fault, all slots bound unless it is `UNINIT` (R30, R68). -/
theorem State.Of.Lifecycle.of_cleared {t : State.Of p}
    (phase : t.phase = .uninit ∧ t.allBound = false ∨
      (t.phase = .configured ∨ t.phase = .ready) ∧ t.allBound = true)
    (err : t.err = 0) (record : t.errInfo = 0 ∧ t.errCmd = 0)
    (derived : t.phase ≠ .ready → t.derived = Derived.zero) (lut : t.lut = LutTag.empty) : t.Lifecycle := by
  have invalid : t.lut.valid = false := by rw [lut]; rfl
  refine ⟨?_, ?_, ?_, fun _ => record, fun valid => ?_, fun idle => ⟨derived ?_, invalid⟩, fun _ => lut⟩
  · rcases phase with ⟨at_, -⟩ | ⟨at_ | at_, -⟩ <;> simp [at_]
  · rcases phase with ⟨at_, all⟩ | ⟨at_ | at_, all⟩ <;> simp [at_, all]
  · rcases phase with ⟨at_, -⟩ | ⟨at_ | at_, -⟩ <;> simp [at_, err]
  · rw [invalid] at valid; cases valid
  · rcases idle with at_ | at_ <;> simp [at_]

theorem State.Of.Lifecycle.no_error {s : State.Of p} (h : s.Lifecycle) (active : s.phase ≠ .fault) : s.err = 0 := by
  by_contra err
  exact active (h.err_iff.1 err)

theorem State.Of.Lifecycle.allBound_true {s : State.Of p} (h : s.Lifecycle) (active : s.phase ≠ .fault)
    (started : s.phase ≠ .uninit) : s.allBound = true := by
  by_contra unbound
  exact started (h.uninit_iff.2 ⟨active, by simpa using unbound⟩)

theorem State.Of.Lifecycle.raiseFault {s : State.Of p} (h : s.Lifecycle) (e : ErrCode) (info : Nat) (c : Word) :
    (raiseFault e info c s).Lifecycle where
  not_reshaped := nofun
  uninit_iff := by simp
  err_iff := by cases e <;> simp [ErrCode.code]
  record_clear active := absurd rfl active
  table_phase _ := .inr rfl
  not_ready_clear := by simp
  tag_clear := h.tag_clear

theorem State.Of.Lifecycle.writeCfg {s : State.Of p} (h : s.Lifecycle) (active : s.phase ≠ .fault) (c : Cfg) :
    (writeCfg c s).Lifecycle := by
  rcases writeCfg_cases c active with ⟨ready, eq⟩ | ⟨-, eq⟩ <;> rw [eq]
  · exact .of_cleared (.inr ⟨.inl rfl, h.allBound_true active (by simp [ready])⟩) (h.no_error active)
      (h.record_clear active) (fun _ => rfl) rfl
  · exact h.of_sameControl ⟨rfl, rfl, rfl, rfl, rfl, rfl⟩ (.inr (.inl rfl))

theorem State.Of.Lifecycle.writeElem {s : State.Of p} (h : s.Lifecycle) (active : s.phase ≠ .fault)
    {sp : Space} {i : Nat} (hw : writable p sp i = true) (v : α) : (writeElem sp i v s).Lifecycle := by
  have stored := sameControl_setElem s sp i v
  rcases writeElem_cases v active hw with ⟨slot, -, -, eq⟩ | ⟨slot, -, -, eq⟩ | ⟨-, eq⟩ | ⟨-, eq⟩ <;> rw [eq]
  · have unbound : ((s.setElem sp i v).setBound slot false).allBound = false :=
      allBound_eq_false (sl := slot) (by simp)
    refine .of_cleared (.inl ⟨rfl, unbound⟩) ?_ ?_ (fun _ => rfl) rfl
    · simp [stored.err, h.no_error active]
    · simp [stored.errInfo, stored.errCmd, h.record_clear active]
  · exact h.of_sameControl stored (.inl (by simp [State.Of.setElem]))
  · exact h.of_sameControl ⟨stored.phase, stored.allBound, stored.err, stored.errInfo, stored.errCmd, stored.derived⟩
      (.inr (.inl rfl))
  · exact h.of_sameControl stored (.inl (by simp [State.Of.setElem]))

theorem State.Of.Lifecycle.bindEffect {s : State.Of p} (h : s.Lifecycle) (active : s.phase ≠ .fault) (slot : BitVec 2) :
    (bindEffect slot s).Lifecycle := by
  rcases bindEffect_cases slot s with eq | ⟨sl, ⟨eq, incomplete⟩ | ⟨eq, uninit, complete⟩⟩ <;> rw [eq]
  · exact h
  · refine h.of_sameControl ⟨by simp, ?_, by simp, by simp, by simp, by simp⟩ (.inl (by simp))
    by_cases uninit : s.phase = .uninit
    · rw [(h.uninit_iff.1 uninit).2]
      simpa [uninit] using incomplete
    · have all := h.allBound_true active uninit
      rw [all, allBound_setBound_true sl all]
  · obtain ⟨derived, invalid⟩ := h.not_ready_clear (.inl uninit)
    refine .of_cleared (.inr ⟨.inl rfl, complete⟩) ?_ ?_ (fun _ => ?_) ?_
    · simpa using h.no_error active
    · simpa using h.record_clear active
    · simpa using derived
    · simpa using h.tag_clear invalid

theorem State.Of.Lifecycle.rebuild {s : State.Of p} (h : s.Lifecycle) (configured : s.phase = .configured) :
    (rebuild s).Lifecycle := by
  have active : s.phase ≠ .fault := by simp [configured]
  exact .of_cleared (.inr ⟨.inr rfl, h.allBound_true active (by simp [configured])⟩) (h.no_error active)
    (h.record_clear active) (fun unready => absurd rfl unready) rfl

theorem State.Of.Lifecycle.compute {s : State.Of p} (h : s.Lifecycle) {i : Instr} (computes : Computes i)
    (ready : s.phase = .ready) : (commandEffect i s).Lifecycle := by
  refine h.of_sameControl (computes.sameInputs s).control ?_
  rcases commandEffect_table_cases i s with kept | ⟨r, j, rfl⟩ | ⟨j, rfl⟩ | ⟨n, j, rfl⟩
  · exact kept.imp And.left fun dropped => .inl dropped.1
  · exact .inr (.inr ⟨rfl, ready⟩)
  · exact .inr (.inr ⟨rfl, ready⟩)
  · exact .inr (.inr ⟨rfl, ready⟩)

theorem lifecycle_rule : StepRule (p := p) State.Of.Lifecycle State.Of.Lifecycle where
  idle _ h := h
  bus _ _ _ h := h.of_sameControl ⟨rfl, rfl, rfl, rfl, rfl, rfl⟩ (.inl rfl)
  config _ c h active := h.writeCfg active c
  element _ _ _ v h active hw := h.writeElem active hw v
  fault _ e info c h _ := h.raiseFault e info c
  reset _ _ := .of_cleared (.inl ⟨rfl, rfl⟩) rfl ⟨rfl, rfl⟩ (fun _ => rfl) rfl
  bind _ slot h active := h.bindEffect active slot
  rebuild _ _ h configured _ _ := h.rebuild configured
  compute _ _ h computes ready _ := h.compute computes ready

/-- Settles O55: each part of a step keeps the lifecycle. -/
theorem stepKeepsLifecycle : Obligations.StepKeepsLifecycle := fun s _ h ht =>
  lifecycle_rule.step h (step_eq_stepOn s ▸ ht)

/-! ### What `READY` promises (R45 item 5, R42) -/

theorem decoded_of_eq {s t : State.Of p} (cfg : t.cfg = s.cfg) (idxmem : t.idxmem = s.idxmem) :
    t.decoded = s.decoded := by
  simp only [State.Of.decoded, State.Of.packedWords, State.Of.elem, State.Of.mem, cfg, idxmem]

theorem State.Of.Ready.of_eq {s t : State.Of p} (h : s.Ready) (cfg : t.cfg = s.cfg) (derived : t.derived = s.derived)
    (idxmem : t.idxmem = s.idxmem) (decmem : t.decmem = s.decmem) : t.Ready where
  checks := by rw [cfg]; exact h.checks
  derived := by rw [cfg, derived]; exact h.derived
  decoded := by rw [decoded_of_eq cfg idxmem, decmem]; exact h.decoded

theorem SameInputs.keeps_ready {s t : State.Of p} (same : SameInputs s t) (h : s.Ready) : t.Ready := by
  obtain ⟨out, tag, table, rfl⟩ := same.exists_eq
  exact h.of_eq rfl rfl rfl rfl

/-- Outside `FAULT` and `UNINIT` a host write to a parameter memory finds its slot bound (R25, R45 item 2). -/
theorem State.Of.Lifecycle.bound {s : State.Of p} (h : s.Lifecycle) (ready : s.phase = .ready) (slot : Slot) :
    s.bound slot = true :=
  bound_of_allBound (h.allBound_true (by simp [ready]) (by simp [ready])) slot

theorem ready_rebuild {s : State.Of p} {codes : List Nat} (checks : firstFailing (reshapeChecks p s.cfg) = none)
    (decoded : s.decoded = .ok codes) : (rebuild s).Ready where
  checks := checks
  derived := rfl
  decoded := ⟨codes, decoded, by simp [State.Of.decodedIndices, decoded]⟩

theorem ready_rule : StepRule (p := p) (fun s => s.Lifecycle ∧ (s.phase = .ready → s.Ready))
    (fun t => t.phase = .ready → t.Ready) where
  idle _ h := h.2
  bus _ rest r h := ⟨lifecycle_rule.bus _ rest r h.1, fun ready => (h.2 ready).of_eq rfl rfl rfl rfl⟩
  config s c h active := by
    rcases writeCfg_cases c active with ⟨-, eq⟩ | ⟨unready, eq⟩ <;> rw [eq]
    · exact nofun
    · exact fun ready => absurd ready unready
  element s sp i v h active hw := by
    have keeps (hsp : sp = .inmem ∨ sp = .outmem) (ready : s.phase = .ready) : (s.setElem sp i v).Ready := by
      rcases hsp with rfl | rfl <;> exact (h.2 ready).of_eq rfl rfl rfl rfl
    rcases writeElem_cases v active hw with
      ⟨slot, -, -, eq⟩ | ⟨slot, -, unbound, eq⟩ | ⟨hsp, eq⟩ | ⟨hsp, eq⟩ <;> rw [eq]
    · exact nofun
    · intro ready
      rw [h.1.bound (by simpa [State.Of.setElem] using ready)] at unbound
      cases unbound
    · intro ready
      exact (keeps (.inl hsp) (by simpa [State.Of.setElem] using ready)).of_eq rfl rfl rfl rfl
    · intro ready
      exact keeps (.inr hsp) (by simpa [State.Of.setElem] using ready)
  fault _ _ _ _ _ _ := nofun
  reset _ _ := nofun
  bind s slot h _ := by
    rcases bindEffect_cases slot s with eq | ⟨sl, ⟨eq, -⟩ | ⟨eq, -⟩⟩ <;> rw [eq]
    · exact h.2
    · exact fun ready => (h.2 (by simpa using ready)).of_eq (by simp) (by simp) (by simp) (by simp)
    · exact nofun
  rebuild _ _ _ _ checks decoded _ := ready_rebuild checks decoded
  compute s _ h computes ready _ _ := (computes.sameInputs s).keeps_ready (h.2 ready)

/-- Settles O56: only `RESHAPE` makes a block `READY`, after its checks; a block that stays `READY` keeps what the
promise is about. -/
theorem stepKeepsReadyPromise : Obligations.StepKeepsReadyPromise := fun s _ lifecycle ready ht =>
  ready_rule.step ⟨lifecycle, ready⟩ (step_eq_stepOn s ▸ ht)

/-! ### The table (R43, R26) -/

theorem taggedTable_of_eq {s t : State.Of p} (lut : t.lut = s.lut) (cfg : t.cfg = s.cfg)
    (cbmem : t.cbmem = s.cbmem) (inmem : t.inmem = s.inmem) : t.taggedTable = s.taggedTable := by
  have linear : t.segmentLinear = s.segmentLinear := by
    funext r j m
    simp only [State.Of.segmentLinear, State.Of.elem, State.Of.mem, cfg, inmem]
  have spatial : t.segmentSpatial = s.segmentSpatial := by
    funext n j pos m
    simp only [State.Of.segmentSpatial, State.Of.elem, State.Of.mem, cfg, inmem]
  have products : t.dot = s.dot := by
    funext j k x
    simp only [State.Of.dot, State.Of.elem, State.Of.mem, cfg, cbmem]
  simp only [State.Of.taggedTable, State.Of.tableRow, State.Of.tableRows, State.Of.tablePlanes, lut, cfg, linear,
    spatial, products]

theorem State.Of.Table.of_eq {s t : State.Of p} (h : s.Table) (lut : t.lut = s.lut) (lutmem : t.lutmem = s.lutmem)
    (cfg : t.cfg = s.cfg) (derived : t.derived = s.derived) (cbmem : t.cbmem = s.cbmem) (inmem : t.inmem = s.inmem) :
    t.Table where
  fresh := by rw [taggedTable_of_eq lut cfg cbmem inmem, lutmem]; exact h.fresh
  kind := by rw [lut, cfg]; exact h.kind
  slice := by rw [lut, derived]; exact h.slice
  row := by rw [lut, cfg]; exact h.row
  rowOfB := by rw [lut]; exact h.rowOfB

theorem State.Of.Ready.passed {s : State.Of p} (h : s.Ready) : Passed p s.cfg := passed_of_checks h.checks

theorem mulvEffect_eq (r j : BitVec 12) (s : State.Of p) : mulvEffect r.toNat j.toNat s =
    s.loadTable { valid := true, kind := .v, j := j, r := r } (s.tableRow r.toNat j.toNat) := by simp [mulvEffect]

theorem mulbEffect_eq (j : BitVec 12) (s : State.Of p) : mulbEffect j.toNat s =
    s.loadTable { valid := true, kind := .b, j := j, r := 0 } (s.tableRows j.toNat) := by simp [mulbEffect]

theorem mulsEffect_eq (n j : BitVec 12) (s : State.Of p) : mulsEffect n.toNat j.toNat s =
    s.loadTable { valid := true, kind := .s, j := j, r := n } (s.tablePlanes n.toNat j.toNat) := by simp [mulsEffect]

/-- R152: the table of `MULV` is the one its tag describes. -/
theorem table_mulv {r j : BitVec 12} {s : State.Of p} (passed : firstFailing (commandChecks (.mulv r j) s) = none) :
    (mulvEffect r.toNat j.toNat s).Table := by
  simp only [commandChecks, firstFailing_eq_none, List.forall_mem_cons, modeCheck_passes, sliceCheck_passes,
    rowCheck_passes] at passed
  obtain ⟨-, linear, slice, row, -⟩ := passed
  rw [mulvEffect_eq]
  exact ⟨rfl, by simp [linear], slice, row, nofun⟩

/-- R153: the table of `MULB` is the one its tag describes; its row is 0, which every geometry has. -/
theorem table_mulb {j : BitVec 12} {s : State.Of p} (h : s.Ready)
    (passed : firstFailing (commandChecks (.mulb j) s) = none) : (mulbEffect j.toNat s).Table := by
  simp only [commandChecks, firstFailing_eq_none, List.forall_mem_cons, modeCheck_passes, sliceCheck_passes] at passed
  obtain ⟨-, linear, slice, -⟩ := passed
  rw [mulbEffect_eq]
  exact ⟨rfl, by simp [linear], slice, h.passed.batch, fun _ => rfl⟩

/-- R154: the table of `MULS` is the one its tag describes. -/
theorem table_muls {n j : BitVec 12} {s : State.Of p} (passed : firstFailing (commandChecks (.muls n j) s) = none) :
    (mulsEffect n.toNat j.toNat s).Table := by
  simp only [commandChecks, firstFailing_eq_none, List.forall_mem_cons, modeCheck_passes, sliceCheck_passes,
    rowCheck_passes] at passed
  obtain ⟨-, spatial, slice, row, -⟩ := passed
  rw [mulsEffect_eq]
  exact ⟨rfl, by simp [spatial], slice, row, nofun⟩

/-- What the table's promise rests on: the lifecycle, and what `READY` promises. -/
structure State.Of.TableKept (s : State.Of p) : Prop where
  lifecycle : s.Lifecycle
  ready : s.phase = .ready → s.Ready
  table : s.lut.valid = true → s.Table

theorem invalid_of_empty {s : State.Of p} (h : s.lut = LutTag.empty) : ¬ s.lut.valid = true := by
  rw [h]; exact nofun

theorem table_rule : StepRule (p := p) State.Of.TableKept (fun t => t.lut.valid = true → t.Table) where
  idle _ h := h.table
  bus _ rest r h := ⟨lifecycle_rule.bus _ rest r h.lifecycle, fun ready => (h.ready ready).of_eq rfl rfl rfl rfl,
    fun valid => (h.table valid).of_eq rfl rfl rfl rfl rfl rfl⟩
  config s c h active := by
    rcases writeCfg_cases c active with ⟨-, eq⟩ | ⟨-, eq⟩ <;> rw [eq] <;> exact nofun
  element s sp i v h active hw := by
    rcases writeElem_cases v active hw with ⟨slot, -, -, eq⟩ | ⟨slot, -, unbound, eq⟩ | ⟨-, eq⟩ | ⟨rfl, eq⟩ <;> rw [eq]
    · exact nofun
    · intro valid
      rcases h.lifecycle.table_phase (by simpa [State.Of.setElem] using valid) with ready | fault
      · rw [h.lifecycle.bound ready] at unbound
        cases unbound
      · exact absurd fault active
    · exact nofun
    · exact fun valid => (h.table valid).of_eq rfl rfl rfl rfl rfl rfl
  fault _ _ _ _ h _ := fun valid => (h.table valid).of_eq rfl rfl rfl rfl rfl rfl
  reset _ _ := nofun
  bind s slot h _ := by
    obtain ⟨f, b0, b1, b2, eq⟩ := bindEffect_frame slot s
    rw [eq]
    exact fun valid => (h.table valid).of_eq rfl rfl rfl rfl rfl rfl
  rebuild _ _ _ _ _ _ := nofun
  compute s i h computes ready passed valid := by
    have same := computes.sameInputs s
    rcases commandEffect_table_cases i s with (⟨lut, lutmem⟩ | ⟨dropped, -⟩) | ⟨r, j, rfl⟩ | ⟨j, rfl⟩ | ⟨n, j, rfl⟩
    · exact (h.table (lut ▸ valid)).of_eq lut lutmem same.cfg same.derived
        (same.mem .cbmem nofun nofun) (same.mem .inmem nofun nofun)
    · exact absurd valid (invalid_of_empty dropped)
    · exact table_mulv passed
    · exact table_mulb (h.ready ready) passed
    · exact table_muls passed

/-- Settles O57: a multiplier command builds the table its tag describes, every other part of a step that touches
`CBMEM`, `INMEM` or the configuration drops it, and the rest leaves both as they are. -/
theorem validTableIsNeverStale : Obligations.ValidTableIsNeverStale := fun s _ lifecycle ready table ht =>
  table_rule.step ⟨lifecycle, ready, table⟩ (step_eq_stepOn s ▸ ht)

/-! ### The decoded indices (R42) -/

/-- A code is cut to `b` bits (R130). -/
theorem decodeCode_lt {words : List Nat} {b W i x : Nat} (h : decodeCode words b W i = .ok x) : x < 2 ^ b := by
  have cut (n : Nat) : n &&& (2 ^ b - 1) < 2 ^ b := by
    rw [Nat.and_two_pow_sub_one_eq_mod]
    exact Nat.mod_lt _ (Nat.two_pow_pos b)
  simp only [decodeCode] at h
  split at h
  · cases h
  · split at h
    · cases h
      exact cut _
    · split at h <;> cases h
      exact cut _

/-! ### The derived registers of a `READY` block (R41) -/

section Registers

variable {s : State.Of p}

theorem State.Of.Ready.bits (h : s.Ready) (hp : p.Valid) : s.derived.bits.toNat = s.cfg.codeBits := by
  obtain ⟨bits, -⟩ := registers_toNat hp h.passed
  rw [h.derived, bits]

theorem State.Of.Ready.numSlices (h : s.Ready) (hp : p.Valid) : s.derived.numSlices.toNat = s.cfg.slices := by
  obtain ⟨-, numSlices, -⟩ := registers_toNat hp h.passed
  rw [h.derived, numSlices]

theorem State.Of.Ready.count (h : s.Ready) (hp : p.Valid) : s.derived.count.toNat = s.cfg.codeCount := by
  obtain ⟨-, -, count, -⟩ := registers_toNat hp h.passed
  rw [h.derived, count]

theorem State.Of.Ready.outExtent (h : s.Ready) (hp : p.Valid) :
    s.derived.outExtent.toNat = s.cfg.geometry.outExtent := by
  obtain ⟨-, -, -, -, -, -, outExtent, -⟩ := registers_toNat hp h.passed
  rw [h.derived, outExtent]

theorem State.Of.Ready.inExtent (h : s.Ready) (hp : p.Valid) : s.derived.inExtent.toNat = s.cfg.geometry.inExtent := by
  obtain ⟨-, -, -, -, -, inExtent, -⟩ := registers_toNat hp h.passed
  rw [h.derived, inExtent]

theorem State.Of.Ready.outExtent_linear (h : s.Ready) (hp : p.Valid) (linear : s.cfg.spatial = false) :
    s.derived.outExtent.toNat = s.cfg.batch.toNat * s.cfg.numOut.toNat := by
  rw [h.outExtent hp]
  simp [Cfg.geometry, linear]

theorem State.Of.Ready.outExtent_spatial (h : s.Ready) (hp : p.Valid) (spatial : s.cfg.spatial = true) :
    s.derived.outExtent.toNat =
      s.cfg.batch.toNat * s.cfg.numOut.toNat * s.derived.outH.toNat * s.derived.outW.toNat := by
  obtain ⟨-, -, -, outH, outW, -⟩ := registers_toNat hp h.passed
  rw [h.outExtent hp, h.derived, outH, outW]
  simp [Cfg.geometry, spatial]

theorem State.Of.Ready.inExtent_linear (h : s.Ready) (hp : p.Valid) (linear : s.cfg.spatial = false) :
    s.derived.inExtent.toNat = s.cfg.batch.toNat * s.cfg.inWidth.toNat := by
  rw [h.inExtent hp]
  simp [Cfg.geometry, linear]

theorem State.Of.Ready.inExtent_spatial (h : s.Ready) (hp : p.Valid) (spatial : s.cfg.spatial = true) :
    s.derived.inExtent.toNat = s.cfg.batch.toNat * s.cfg.inWidth.toNat * s.cfg.positions := by
  rw [h.inExtent hp]
  simp [Cfg.geometry, spatial, Cfg.positions, Nat.mul_assoc]

theorem State.Of.Ready.outExtent_le (h : s.Ready) (hp : p.Valid) : s.derived.outExtent.toNat ≤ p.capacity .outmem :=
  h.outExtent hp ▸ h.passed.outCap

theorem State.Of.Ready.inExtent_le (h : s.Ready) (hp : p.Valid) : s.derived.inExtent.toNat ≤ p.capacity .inmem :=
  h.inExtent hp ▸ h.passed.inCap

theorem State.Of.Ready.count_le (h : s.Ready) (hp : p.Valid) : s.derived.count.toNat ≤ p.capacity .decmem :=
  h.count hp ▸ h.passed.decCap

/-- The table of a batch fits the lookup cache (R136 row 10, R76 kind `B`). -/
theorem State.Of.Ready.batchTable_le (h : s.Ready) (linear : s.cfg.spatial = false) :
    s.cfg.batch.toNat * s.cfg.k.toNat ≤ p.capacity .lutmem := by
  simpa [Cfg.geometry, linear] using h.passed.lutCap

/-- So does the table of one row (R76 kind `V`). -/
theorem State.Of.Ready.rowTable_le (h : s.Ready) (linear : s.cfg.spatial = false) :
    s.cfg.k.toNat ≤ p.capacity .lutmem :=
  (Nat.le_mul_of_pos_left _ h.passed.batch).trans (h.batchTable_le linear)

/-- And, in spatial mode, that of one image (R76 kind `S`). -/
theorem State.Of.Ready.planeTable_le (h : s.Ready) (spatial : s.cfg.spatial = true) :
    s.cfg.k.toNat * s.cfg.positions ≤ p.capacity .lutmem := by
  simpa [Cfg.geometry, spatial, Cfg.positions, Nat.mul_assoc] using h.passed.lutCap

/-- R42: entry `i` of `DECMEM` is code `i` of the packed buffer, and it is below `K`. -/
theorem State.Of.Ready.codes (h : s.Ready) (hp : p.Valid) : ∃ codes, s.decoded = .ok codes ∧
    ∀ i, i < s.derived.count.toNat → codes[i]? = some (s.code i) ∧ s.code i < s.cfg.k.toNat := by
  obtain ⟨codes, decoded, decmem⟩ := h.decoded
  obtain ⟨length, each⟩ := decodeFrom_ok decoded
  refine ⟨codes, decoded, fun i hi => ?_⟩
  rw [h.count hp, ← length] at hi
  have entry := List.getElem?_eq_getElem hi
  have small : codes[i] < 2 ^ s.cfg.codeBits := decodeCode_lt (each i _ entry)
  have word : codes[i] < 2 ^ 32 :=
    small.trans_le (Nat.pow_le_pow_right (by omega) (h.passed.bits_max.trans hp.maxBits_range.2))
  have code : s.code i = codes[i] := by
    have read : s.elem .decmem i = p.ofWord (BitVec.ofNat 32 codes[i]) := by
      rw [State.Of.elem, State.Of.mem, decmem]
      exact Memory.read_ofList _ _ _ _ (by simp [entry])
    rw [State.Of.code, read, hp.toWord_ofWord, BitVec.toNat_ofNat, Nat.mod_eq_of_lt word]
  rw [code, h.passed.k]
  exact ⟨entry, small⟩

/-! ### No index leaves its object (R177) -/

theorem rowColumn_lt {a b n w : Nat} (ha : a < n) (hb : b < w) : a * w + b < n * w :=
  calc a * w + b < a * w + w := Nat.add_lt_add_left hb _
    _ = (a + 1) * w := (Nat.succ_mul a w).symm
    _ ≤ n * w := Nat.mul_le_mul_right w ha

theorem State.Of.Ready.segmentIndex_lt (h : s.Ready) (hp : p.Valid) {j m : Nat} (hj : j < s.derived.numSlices.toNat)
    (hm : m < s.cfg.m.toNat) : j * s.cfg.m.toNat + m < s.cfg.inWidth.toNat := by
  rw [h.passed.width]
  exact rowColumn_lt (h.numSlices hp ▸ hj) hm

/-- R70 -/
theorem State.Of.Ready.cbIndex_lt (h : s.Ready) (hp : p.Valid) {j m k : Nat} (hj : j < s.derived.numSlices.toNat)
    (hm : m < s.cfg.m.toNat) (hk : k < s.cfg.k.toNat) : s.cfg.cbIndex j m k < s.cfg.cbLen.toNat := by
  rw [h.passed.cbLen, h.passed.total]
  exact rowColumn_lt (h.segmentIndex_lt hp hj hm) hk

/-- R73 -/
theorem State.Of.Ready.inIndexLinear_lt (h : s.Ready) (hp : p.Valid) (linear : s.cfg.spatial = false) {r j m : Nat}
    (hr : r < s.cfg.batch.toNat) (hj : j < s.derived.numSlices.toNat) (hm : m < s.cfg.m.toNat) :
    s.cfg.inIndexLinear r j m < s.derived.inExtent.toNat := by
  rw [h.inExtent_linear hp linear, Cfg.inIndexLinear, Nat.add_assoc]
  exact rowColumn_lt hr (h.segmentIndex_lt hp hj hm)

/-- R74 -/
theorem State.Of.Ready.inIndexSpatial_lt (h : s.Ready) (hp : p.Valid) (spatial : s.cfg.spatial = true)
    {n j m pos : Nat} (hn : n < s.cfg.batch.toNat) (hj : j < s.derived.numSlices.toNat) (hm : m < s.cfg.m.toNat)
    (hpos : pos < s.cfg.positions) : s.cfg.inIndexSpatial n j m pos < s.derived.inExtent.toNat := by
  rw [h.inExtent_spatial hp spatial, Cfg.inIndexSpatial, Nat.add_assoc (n * _)]
  exact rowColumn_lt (rowColumn_lt hn (h.segmentIndex_lt hp hj hm)) hpos

/-- R75, linear mode -/
theorem State.Of.Ready.outIndexLinear_lt (h : s.Ready) (hp : p.Valid) (linear : s.cfg.spatial = false) {r l : Nat}
    (hr : r < s.cfg.batch.toNat) (hl : l < s.cfg.numOut.toNat) :
    s.cfg.outIndexLinear r l < s.derived.outExtent.toNat := by
  rw [h.outExtent_linear hp linear]
  exact rowColumn_lt hr hl

/-- R75, spatial mode -/
theorem State.Of.Ready.outIndexSpatial_lt (h : s.Ready) (hp : p.Valid) (spatial : s.cfg.spatial = true)
    {n ch oh ow : Nat} (hn : n < s.cfg.batch.toNat) (hch : ch < s.cfg.numOut.toNat) (hoh : oh < s.derived.outH.toNat)
    (how : ow < s.derived.outW.toNat) : s.outIndexSpatial n ch oh ow < s.derived.outExtent.toNat := by
  rw [h.outExtent_spatial hp spatial]
  exact rowColumn_lt (rowColumn_lt (rowColumn_lt hn hch) hoh) how

/-- R77, linear mode -/
theorem State.Of.Ready.decIndexLinear_lt (h : s.Ready) (hp : p.Valid) (linear : s.cfg.spatial = false) {j l : Nat}
    (hj : j < s.derived.numSlices.toNat) (hl : l < s.cfg.numOut.toNat) :
    s.cfg.decIndexLinear j l < s.derived.count.toNat := by
  have count : s.derived.count.toNat = s.cfg.slices * s.cfg.numOut.toNat := by
    rw [h.count hp, Nat.mul_comm]
    simp [Cfg.codeCount, linear]
  rw [count]
  exact rowColumn_lt (h.numSlices hp ▸ hj) hl

/-- R77, spatial mode -/
theorem State.Of.Ready.decIndexSpatial_lt (h : s.Ready) (hp : p.Valid) (spatial : s.cfg.spatial = true)
    {j kh kw ch : Nat} (hj : j < s.derived.numSlices.toNat) (hkh : kh < s.cfg.kernelH.toNat)
    (hkw : kw < s.cfg.kernelW.toNat) (hch : ch < s.cfg.numOut.toNat) :
    s.cfg.decIndexSpatial j kh kw ch < s.derived.count.toNat := by
  rw [h.count hp, Cfg.codeCount, spatial]
  exact rowColumn_lt (rowColumn_lt (rowColumn_lt (h.numSlices hp ▸ hj) hkh) hkw) hch

/-- R76, kind `S`, for a tap that lies in the input (R174) -/
theorem lutIndexS_lt {c : Cfg} {k row col : Nat} (hk : k < c.k.toNat) (hrow : row < c.inH.toNat)
    (hcol : col < c.inW.toNat) : c.lutIndexS k (row * c.inW.toNat + col) < c.k.toNat * c.positions :=
  rowColumn_lt hk (rowColumn_lt hrow hcol)

theorem State.Of.Ready.code_lt (h : s.Ready) (hp : p.Valid) {i : Nat} (hi : i < s.derived.count.toNat) :
    s.code i < s.cfg.k.toNat := by
  obtain ⟨codes, -, each⟩ := h.codes hp
  exact (each i hi).2

end Registers

theorem reference_valid : reference.Valid := hostMapInjective.2.1

/-- Settles O60: `READY` promises that `DECMEM` is the decoded buffer, and a code has `BITS` bits. -/
theorem decodedIndicesBelowK : Obligations.DecodedIndicesBelowK := by
  intro s inv phase
  have ready := inv.ready phase
  obtain ⟨codes, decoded, each⟩ := ready.codes reference_valid
  refine ⟨codes, ?_, each⟩
  rw [ready.count reference_valid, ready.bits reference_valid]
  exact decoded

/-! ### The memories (R62, and their canonical form) -/

/-- The list of a space's memory is in canonical form and lists no element past the capacity. -/
def Memory.Kept (p : Params α) (sp : Space) (m : Memory α) : Prop := m.wf ∧ ∀ c ∈ m, c.1 < p.capacity sp

theorem Memory.kept_nil (sp : Space) : Memory.Kept p sp [] := ⟨.nil, nofun⟩

theorem Memory.Kept.write {sp : Space} {m : Memory α} (h : Memory.Kept p sp m) {i : Nat} (hi : i < p.capacity sp)
    (v : α) : Memory.Kept p sp (Memory.write m i v) := by
  refine ⟨Memory.wf_write h.1 i v, fun c hc => ?_⟩
  rcases Memory.key_write hc with same | listed
  · exact same ▸ hi
  · exact h.2 c listed

theorem Memory.kept_ofList {sp : Space} {l : List α} (h : l.length ≤ p.capacity sp) :
    Memory.Kept p sp (Memory.ofList 0 l) := by
  refine ⟨Memory.wf_ofList 0 l, fun c hc => ?_⟩
  have := (Memory.key_ofList hc).2
  omega

theorem Memory.Kept.fill {sp : Space} {m : Memory α} (h : Memory.Kept p sp m) {n : Nat} (hn : n ≤ p.capacity sp)
    (v : α) : Memory.Kept p sp (Memory.fill n v m) := by
  refine ⟨Memory.wf_fill h.1 n v, fun c hc => ?_⟩
  rcases Memory.key_fill hc with filled | listed
  · exact filled.trans_le hn
  · exact h.2 c listed

theorem Memory.Kept.scatterAdd {m : Memory α} (h : Memory.Kept p .outmem m) {cs : List (Nat × α)}
    (hcs : ∀ c ∈ cs, c.1 < p.capacity .outmem) : Memory.Kept p .outmem (Memory.scatterAdd p cs m) := by
  refine ⟨Memory.wf_scatterAdd h.1 cs, fun c hc => ?_⟩
  rcases Memory.key_scatterAdd hc with ⟨d, hd, same⟩ | listed
  · exact same ▸ hcs d hd
  · exact h.2 c listed

/-- Every memory is kept so: the two last parts of the invariant in one. -/
def State.Of.MemoriesKept (s : State.Of p) : Prop := ∀ sp, Memory.Kept p sp (s.mem sp)

theorem memoriesKept_iff (s : State.Of p) : s.MemoriesKept ↔ s.Canonical ∧ s.InRange := forall_and

theorem State.Of.Inv.memories {s : State.Of p} (h : s.Inv) : s.MemoriesKept :=
  (memoriesKept_iff s).2 ⟨h.canonical, h.inRange⟩

/-! ### What the commands add stays inside `OUTMEM` -/

section Contributions

variable {s : State.Of p}

theorem State.Of.Ready.gacv_inside (h : s.Ready) (hp : p.Valid) (linear : s.cfg.spatial = false) {r : Nat}
    (hr : r < s.cfg.batch.toNat) (j : Nat) : ∀ c ∈ s.gacvContributions r j, c.1 < p.capacity .outmem := by
  intro c hc
  simp only [State.Of.gacvContributions, List.mem_map, List.mem_range] at hc
  obtain ⟨l, hl, rfl⟩ := hc
  exact (h.outIndexLinear_lt hp linear hr hl).trans_le (h.outExtent_le hp)

theorem State.Of.Ready.gacb_inside (h : s.Ready) (hp : p.Valid) (linear : s.cfg.spatial = false) (j : Nat) :
    ∀ c ∈ s.gacbContributions j, c.1 < p.capacity .outmem := by
  intro c hc
  simp only [State.Of.gacbContributions, State.Of.gacbRow, List.mem_flatMap, List.mem_map, List.mem_range] at hc
  obtain ⟨r, hr, l, hl, rfl⟩ := hc
  exact (h.outIndexLinear_lt hp linear hr hl).trans_le (h.outExtent_le hp)

theorem State.Of.Ready.gacs_inside (h : s.Ready) (hp : p.Valid) (spatial : s.cfg.spatial = true) {n : Nat}
    (hn : n < s.cfg.batch.toNat) (j : Nat) : ∀ c ∈ s.gacsContributions n j, c.1 < p.capacity .outmem := by
  intro c hc
  obtain ⟨ch, oh, ow, hch, hoh, how, index⟩ := mem_gacsContributions hc
  rw [index]
  exact (h.outIndexSpatial_lt hp spatial hn hch hoh how).trans_le (h.outExtent_le hp)

theorem State.Of.Ready.bias_inside (h : s.Ready) (hp : p.Valid) :
    ∀ c ∈ s.biasContributions, c.1 < p.capacity .outmem := by
  intro c hc
  refine lt_of_lt_of_le ?_ (h.outExtent_le hp)
  rw [State.Of.biasContributions] at hc
  split at hc
  · next spatial =>
    split at hc
    · simp only [List.mem_flatMap, List.mem_map, List.mem_range] at hc
      obtain ⟨n, hn, ch, hch, q, hq, rfl⟩ := hc
      rw [h.outExtent_spatial hp spatial, Nat.mul_assoc, Nat.mul_assoc _ s.derived.outH.toNat]
      exact rowColumn_lt (rowColumn_lt hn hch) hq
    · cases hc
  · next linear =>
    simp only [List.mem_flatMap, List.mem_map, List.mem_range] at hc
    obtain ⟨r, hr, l, hl, rfl⟩ := hc
    exact h.outIndexLinear_lt hp (by simpa using linear) hr hl

/-- What the parts of a forward command keep from state `s` on: the inputs, and `OUTMEM` inside its capacity. -/
structure OutputKept (s t : State.Of p) : Prop where
  same : SameInputs s t
  out : Memory.Kept p .outmem t.outmem

theorem OutputKept.linearSlice (h : s.Ready) (hp : p.Valid) (linear : s.cfg.spatial = false) {t : State.Of p}
    (kept : OutputKept s t) (j : Nat) : OutputKept s (linearSlice t j) := by
  have loaded : SameInputs s (mulbEffect j t) := kept.same.trans rfl
  exact ⟨kept.same.trans (sameInputs_linearSlice t j), kept.out.scatterAdd
    ((loaded.keeps_ready h).gacb_inside hp (loaded.cfg ▸ linear) j)⟩

theorem OutputKept.spatialSlice (h : s.Ready) (hp : p.Valid) (spatial : s.cfg.spatial = true) {n : Nat}
    (hn : n < s.cfg.batch.toNat) {t : State.Of p} (kept : OutputKept s t) (j : Nat) :
    OutputKept s (spatialSlice n t j) := by
  have loaded : SameInputs s (mulsEffect n j t) := kept.same.trans rfl
  exact ⟨kept.same.trans (sameInputs_spatialSlice n t j), kept.out.scatterAdd
    ((loaded.keeps_ready h).gacs_inside hp (loaded.cfg ▸ spatial) (loaded.cfg ▸ hn) j)⟩

theorem OutputKept.zero (h : s.Ready) (hp : p.Valid) (out : Memory.Kept p .outmem s.outmem) :
    OutputKept s (zeroEffect s) :=
  ⟨sameInputs_zero s, out.fill (h.outExtent_le hp) _⟩

theorem OutputKept.bias (h : s.Ready) (hp : p.Valid) {t : State.Of p} (kept : OutputKept s t) :
    OutputKept s (biasEffect t) :=
  ⟨kept.same.trans (sameInputs_bias t), kept.out.scatterAdd ((kept.same.keeps_ready h).bias_inside hp)⟩

theorem OutputKept.fwdl (h : s.Ready) (hp : p.Valid) (linear : s.cfg.spatial = false)
    (out : Memory.Kept p .outmem s.outmem) : OutputKept s (fwdlEffect s) :=
  .bias h hp (List.foldlRecOn _ _ (.zero h hp out) fun _ kept j _ => kept.linearSlice h hp linear j)

theorem OutputKept.spatialImage (h : s.Ready) (hp : p.Valid) (spatial : s.cfg.spatial = true) {n : Nat}
    (hn : n < s.cfg.batch.toNat) {t : State.Of p} (kept : OutputKept s t) : OutputKept s (spatialImage t n) :=
  List.foldlRecOn _ _ kept fun _ kept j _ => kept.spatialSlice h hp spatial hn j

theorem OutputKept.fwds (h : s.Ready) (hp : p.Valid) (spatial : s.cfg.spatial = true)
    (out : Memory.Kept p .outmem s.outmem) : OutputKept s (fwdsEffect s) :=
  .bias h hp (List.foldlRecOn _ _ (.zero h hp out) fun _ kept _ hn =>
    kept.spatialImage h hp spatial (List.mem_range.1 hn))

/-- R62 for `OUTMEM`: no command writes past it. -/
theorem State.Of.Ready.compute_outmem (h : s.Ready) (hp : p.Valid) {i : Instr} (computes : Computes i)
    (passed : firstFailing (commandChecks i s) = none) (out : Memory.Kept p .outmem s.outmem) :
    Memory.Kept p .outmem (commandEffect i s).outmem := by
  obtain ⟨notNop, notReset, notBind, notReshape⟩ := computes
  rw [firstFailing_eq_none] at passed
  cases i with
  | nop => exact absurd rfl notNop
  | reset => exact absurd rfl notReset
  | bind slot => exact absurd rfl (notBind slot)
  | reshape => exact absurd rfl notReshape
  | mulv r j => exact out
  | mulb j => exact out
  | muls n j => exact out
  | zero => exact (OutputKept.zero h hp out).out
  | gacv r j =>
    simp only [commandChecks, List.forall_mem_cons, modeCheck_passes, rowCheck_passes] at passed
    obtain ⟨-, linear, -, row, -⟩ := passed
    exact out.scatterAdd (h.gacv_inside hp linear row _)
  | gacb j =>
    simp only [commandChecks, List.forall_mem_cons, modeCheck_passes] at passed
    obtain ⟨-, linear, -⟩ := passed
    exact out.scatterAdd (h.gacb_inside hp linear _)
  | gacs n j =>
    simp only [commandChecks, List.forall_mem_cons, modeCheck_passes, rowCheck_passes] at passed
    obtain ⟨-, spatial, -, row, -⟩ := passed
    exact out.scatterAdd (h.gacs_inside hp spatial row _)
  | bias => exact out.scatterAdd (h.bias_inside hp)
  | fwdl =>
    simp only [commandChecks, List.forall_mem_cons, modeCheck_passes] at passed
    obtain ⟨-, linear, -⟩ := passed
    exact (OutputKept.fwdl h hp linear out).out
  | fwds =>
    simp only [commandChecks, List.forall_mem_cons, modeCheck_passes] at passed
    obtain ⟨-, spatial, -⟩ := passed
    exact (OutputKept.fwds h hp spatial out).out

/-- R62 for `LUTMEM`: no table is longer than it. -/
theorem State.Of.Ready.compute_lutmem (h : s.Ready) {i : Instr}
    (passed : firstFailing (commandChecks i s) = none) (table : Memory.Kept p .lutmem s.lutmem) :
    Memory.Kept p .lutmem (commandEffect i s).lutmem := by
  rw [firstFailing_eq_none] at passed
  rcases commandEffect_table_cases i s with (⟨-, same⟩ | ⟨-, empty⟩) | ⟨r, j, rfl⟩ | ⟨j, rfl⟩ | ⟨n, j, rfl⟩
  · rw [same]; exact table
  · rw [empty]; exact Memory.kept_nil _
  · simp only [commandChecks, List.forall_mem_cons, modeCheck_passes] at passed
    obtain ⟨-, linear, -⟩ := passed
    exact Memory.kept_ofList (length_tableRow s _ _ ▸ h.rowTable_le linear)
  · simp only [commandChecks, List.forall_mem_cons, modeCheck_passes] at passed
    obtain ⟨-, linear, -⟩ := passed
    exact Memory.kept_ofList (length_tableRows s _ ▸ h.batchTable_le linear)
  · simp only [commandChecks, List.forall_mem_cons, modeCheck_passes] at passed
    obtain ⟨-, spatial, -⟩ := passed
    exact Memory.kept_ofList (length_tablePlanes s _ _ ▸ h.planeTable_le spatial)

end Contributions

/-! ### Every step keeps the memories -/

section Memories

variable {s : State.Of p}

theorem State.Of.MemoriesKept.setElem (h : s.MemoriesKept) {sp : Space} {i : Nat} (hi : i < p.capacity sp) (v : α) :
    (s.setElem sp i v).MemoriesKept := by
  intro sp'
  rw [State.Of.setElem, withMem_mem]
  split
  · next same => exact same ▸ (h sp).write hi v
  · exact h sp'

/-- The five host memories are as they were, and the two caches are kept. -/
theorem State.Of.MemoriesKept.of_caches (h : s.MemoriesKept) {t : State.Of p} (cbmem : t.cbmem = s.cbmem)
    (biasmem : t.biasmem = s.biasmem) (idxmem : t.idxmem = s.idxmem) (inmem : t.inmem = s.inmem)
    (outmem : t.outmem = s.outmem) (decmem : Memory.Kept p .decmem t.decmem)
    (lutmem : Memory.Kept p .lutmem t.lutmem) : t.MemoriesKept := by
  intro sp
  cases sp with
  | cbmem => rw [State.Of.mem, cbmem]; exact h .cbmem
  | biasmem => rw [State.Of.mem, biasmem]; exact h .biasmem
  | idxmem => rw [State.Of.mem, idxmem]; exact h .idxmem
  | inmem => rw [State.Of.mem, inmem]; exact h .inmem
  | outmem => rw [State.Of.mem, outmem]; exact h .outmem
  | decmem => exact decmem
  | lutmem => exact lutmem

theorem State.Of.MemoriesKept.writeElem (h : s.MemoriesKept) {sp : Space} {i : Nat} (active : s.phase ≠ .fault)
    (hw : writable p sp i = true) (v : α) : (writeElem sp i v s).MemoriesKept := by
  have stored := h.setElem (lt_capacity_of_writable hw) v
  rcases writeElem_cases v active hw with ⟨slot, -, -, eq⟩ | ⟨slot, -, -, eq⟩ | ⟨-, eq⟩ | ⟨-, eq⟩ <;> rw [eq]
  · exact stored.of_caches (by simp) (by simp) (by simp) (by simp) (by simp) (Memory.kept_nil _) (Memory.kept_nil _)
  · exact stored
  · exact stored.of_caches rfl rfl rfl rfl rfl (stored .decmem) (Memory.kept_nil _)
  · exact stored

/-- R62 for `DECMEM`: `RESHAPE` decodes `COUNT` indices, which fit. -/
theorem kept_decodedIndices {codes : List Nat} (checks : firstFailing (reshapeChecks p s.cfg) = none)
    (decoded : s.decoded = .ok codes) : Memory.Kept p .decmem (Memory.ofList 0 s.decodedIndices) := by
  apply Memory.kept_ofList
  simp only [State.Of.decodedIndices, decoded, List.length_map, (decodeFrom_ok decoded).1]
  exact (passed_of_checks checks).decCap

theorem State.Of.MemoriesKept.compute (h : s.MemoriesKept) (ready : s.Ready) (hp : p.Valid) {i : Instr}
    (computes : Computes i) (passed : firstFailing (commandChecks i s) = none) :
    (commandEffect i s).MemoriesKept := by
  intro sp
  by_cases out : sp = .outmem
  · exact out ▸ ready.compute_outmem hp computes passed (h .outmem)
  · by_cases lut : sp = .lutmem
    · exact lut ▸ ready.compute_lutmem passed (h .lutmem)
    · rw [(computes.sameInputs s).mem sp out lut]
      exact h sp

end Memories

theorem memories_rule (hp : p.Valid) : StepRule (p := p) (fun s => (s.phase = .ready → s.Ready) ∧ s.MemoriesKept)
    State.Of.MemoriesKept where
  idle _ h := h.2
  bus s _ _ h := ⟨fun ready => (h.1 ready).of_eq rfl rfl rfl rfl,
    h.2.of_caches (s := s) rfl rfl rfl rfl rfl (h.2 .decmem) (h.2 .lutmem)⟩
  config s c h active := by
    rcases writeCfg_cases c active with ⟨-, eq⟩ | ⟨-, eq⟩ <;> rw [eq]
    · exact h.2.of_caches rfl rfl rfl rfl rfl (Memory.kept_nil _) (Memory.kept_nil _)
    · exact h.2.of_caches rfl rfl rfl rfl rfl (h.2 .decmem) (Memory.kept_nil _)
  element _ _ _ v h active hw := h.2.writeElem active hw v
  fault _ _ _ _ h _ := h.2.of_caches rfl rfl rfl rfl rfl (h.2 .decmem) (h.2 .lutmem)
  reset _ h := h.2.of_caches rfl rfl rfl rfl rfl (Memory.kept_nil _) (Memory.kept_nil _)
  bind s slot h _ := by
    obtain ⟨f, b0, b1, b2, eq⟩ := bindEffect_frame slot s
    rw [eq]
    exact h.2.of_caches rfl rfl rfl rfl rfl (h.2 .decmem) (h.2 .lutmem)
  rebuild _ _ h _ checks decoded :=
    h.2.of_caches rfl rfl rfl rfl rfl (kept_decodedIndices checks decoded) (Memory.kept_nil _)
  compute _ _ h computes ready passed := h.2.compute (h.1 ready) hp computes passed

/-! ### The whole invariant (R45) -/

theorem State.Of.Inv.step (hp : p.Valid) {s t : State.Of p} (h : s.Inv) (ht : stepOn s = .next t) : t.Inv := by
  obtain ⟨canonical, inRange⟩ := (memoriesKept_iff t).1 ((memories_rule hp).step ⟨h.ready, h.memories⟩ ht)
  exact
    { lifecycle := lifecycle_rule.step h.lifecycle ht
      ready := ready_rule.step ⟨h.lifecycle, h.ready⟩ ht
      table := table_rule.step ⟨h.lifecycle, h.ready, h.table⟩ ht
      canonical := canonical
      inRange := inRange }

/-- Settles O54: at power-on nothing is bound, no table is valid and no memory lists an element. -/
theorem invariantHoldsAtReset : Obligations.InvariantHoldsAtReset where
  lifecycle := .of_cleared (.inl ⟨rfl, rfl⟩) rfl ⟨rfl, rfl⟩ (fun _ => rfl) rfl
  ready := nofun
  table := nofun
  canonical sp := by cases sp <;> exact .nil
  inRange sp := by cases sp <;> exact nofun

/-- Settles O59: the parts of the invariant are kept one by one, and the indices of R70 to R77 are row-major places in
objects whose size R136 bounds by the capacity. -/
theorem stepKeepsInvariant : Obligations.StepKeepsInvariant := by
  refine ⟨fun s t inv ht => inv.step reference_valid (step_eq_stepOn s ▸ ht), fun α p hp s t inv => inv.step hp,
    fun α p s checks q hq => hq.trans_le (passed_of_checks checks).idxCap, ?_⟩
  intro α p hp s inv phase c inside K M NO P S
  have ready := inv.ready phase
  have passed := ready.passed
  refine ⟨fun j m k hj hm hk => ⟨ready.cbIndex_lt hp hj hm hk, passed.cbCap⟩,
    fun l hl => ⟨passed.biasLen ▸ hl, passed.biasCap⟩, fun q hq => ⟨hq, passed.idxCap⟩, ?_, ?_⟩
  · intro linear r j hr hj
    refine ⟨fun m hm => ⟨ready.inIndexLinear_lt hp linear hr hj hm, ready.inExtent_le hp⟩, ?_⟩
    intro l hl code
    have entry := ready.decIndexLinear_lt hp linear hj hl
    have codeBelow : code < K := ready.code_lt hp entry
    exact ⟨⟨entry, ready.count_le hp⟩, ⟨codeBelow, ready.rowTable_le linear⟩,
      ⟨rowColumn_lt hr codeBelow, ready.batchTable_le linear⟩,
      ⟨ready.outIndexLinear_lt hp linear hr hl, ready.outExtent_le hp⟩⟩
  · intro spatial n j hn hj
    refine ⟨fun m pos hm hpos => ⟨ready.inIndexSpatial_lt hp spatial hn hj hm hpos, ready.inExtent_le hp⟩, ?_⟩
    intro ch kh kw oh ow hch hkh hkw hoh how entry code ih iw
    have entryBelow := ready.decIndexSpatial_lt hp spatial hj hkh hkw hch
    refine ⟨⟨entryBelow, ready.count_le hp⟩, fun ⟨ih0, ihH, iw0, iwW⟩ => ⟨?_, ready.planeTable_le spatial⟩,
      ⟨ready.outIndexSpatial_lt hp spatial hn hch hoh how, ready.outExtent_le hp⟩⟩
    rw [Nat.add_assoc]
    exact lutIndexS_lt (ready.code_lt hp entryBelow) (by omega) (by omega)

/-! ### What the commands leave alone (R40, R243), and what they do to the phase (R24) -/

/-- What an effect leaves alone: only `RESHAPE` and `RESET` write the decode cache, only `RESET` the configuration. -/
theorem commandEffect_frame (i : Instr) (s : State.Of p) :
    (commandEffect i s).cbmem = s.cbmem ∧ (commandEffect i s).biasmem = s.biasmem ∧
    (commandEffect i s).idxmem = s.idxmem ∧ (commandEffect i s).inmem = s.inmem ∧
    (i ≠ .reshape → i ≠ .reset → (commandEffect i s).decmem = s.decmem) ∧
    (i ≠ .reset → (commandEffect i s).cfg = s.cfg) := by
  rcases lifecycle_or_computes i with rfl | rfl | ⟨slot, rfl⟩ | rfl | computes
  · exact ⟨rfl, rfl, rfl, rfl, fun _ _ => rfl, fun _ => rfl⟩
  · exact ⟨rfl, rfl, rfl, rfl, fun _ notReset => absurd rfl notReset, fun notReset => absurd rfl notReset⟩
  · obtain ⟨f, b0, b1, b2, eq⟩ := bindEffect_frame slot s
    rw [commandEffect, eq]
    exact ⟨rfl, rfl, rfl, rfl, fun _ _ => rfl, fun _ => rfl⟩
  · rw [commandEffect, reshapeEffect]
    split <;> exact ⟨rfl, rfl, rfl, rfl, fun notReshape => absurd rfl notReshape, fun _ => rfl⟩
  · obtain ⟨out, tag, table, eq⟩ := (computes.sameInputs s).exists_eq
    rw [eq]
    exact ⟨rfl, rfl, rfl, rfl, fun _ _ => rfl, fun _ => rfl⟩

/-- Settles O50: a command does nothing, raises a fault or has its effect, and each effect has this frame. -/
theorem commandsKeepParametersAndInput : Obligations.CommandsKeepParametersAndInput := by
  intro i s t ht
  rw [exec_eq_execOn] at ht
  rcases execOn_cases ht with ⟨rfl, rfl⟩ | ⟨-, rfl⟩ | ⟨-, -, k, -, rfl⟩ | ⟨-, -, -, rfl⟩
  · exact commandEffect_frame .reset s
  · exact ⟨rfl, rfl, rfl, rfl, fun _ _ => rfl, fun _ => rfl⟩
  · exact ⟨rfl, rfl, rfl, rfl, fun _ _ => rfl, fun _ => rfl⟩
  · exact commandEffect_frame i s

/-- R24 for a command: only `RESHAPE` in `CONFIGURED` leads to `READY`, only `RESET` out of `FAULT`. -/
theorem execOn_phase {i : Instr} {s t : State.Of p} (ht : execOn i s = .next t) :
    (t.phase = .ready → s.phase ≠ .ready → i = .reshape ∧ s.phase = .configured) ∧
    (s.phase = .fault → t.phase ≠ .fault → i = .reset) := by
  rcases execOn_cases ht with ⟨rfl, rfl⟩ | ⟨fault, rfl⟩ | ⟨-, active, k, -, rfl⟩ | ⟨-, active, passed, rfl⟩
  · exact ⟨nofun, fun _ _ => rfl⟩
  · exact ⟨fun ready unready => absurd ready unready, fun fault active => absurd fault active⟩
  · exact ⟨nofun, fun fault => absurd fault active⟩
  · refine ⟨fun ready unready => ?_, fun fault => absurd fault active⟩
    rcases lifecycle_or_computes i with rfl | rfl | ⟨slot, rfl⟩ | rfl | computes
    · exact absurd ready unready
    · cases ready
    · rw [commandEffect] at ready
      rcases bindEffect_cases slot s with eq | ⟨sl, ⟨eq, -⟩ | ⟨eq, -⟩⟩ <;> rw [eq] at ready
      · exact absurd ready unready
      · exact absurd (by simpa using ready) unready
      · cases ready
    · exact ⟨rfl, ((reshape_passed passed).resolve_left unready).1⟩
    · exact absurd (computes.ready passed) unready

/-! ### A word that is a command is that command's word (R93, R96) -/

theorem encode_of_whenZero {c : Word} {b : Bool} {i j : Instr} (h : whenZero b i = .ok j)
    (hb : b = true → encode i = c) : encode j = c := by
  rw [whenZero] at h
  split at h <;> cases h
  exact hb ‹_›

theorem encode_of_formatZ {c : Word} {i j : Instr} {opc : BitVec 8} (h : formatZ c i = .ok j)
    (hi : encode i = assemble opc 0 0) (hopc : (opcField c).toNat = opc.toNat) : encode j = c := by
  refine encode_of_whenZero h fun zero => ?_
  rw [Bool.and_eq_true, beq_iff_eq, beq_iff_eq] at zero
  rw [hi, ← assemble_fields c, zero.1, zero.2, BitVec.eq_of_toNat_eq hopc]

theorem encode_of_formatS {c : Word} {j : Instr} (h : formatS c = .ok j) (hopc : (opcField c).toNat = 2) :
    encode j = c := by
  rw [formatS] at h
  split at h
  · next zero =>
    split at h <;> cases h
    rw [Bool.and_eq_true, beq_iff_eq, beq_iff_eq] at zero
    have row : c.toNat / 2 ^ 12 % 2 ^ 12 = 0 := by rw [← toNat_rField, zero.1]; rfl
    have pad : c.toNat / 2 ^ 2 % 2 ^ 10 = 0 := by rw [← toNat_slotPadField, zero.2]; rfl
    have opc : c.toNat / 2 ^ 24 % 2 ^ 8 = 2 := by rw [← toNat_opcField, hopc]
    have range := c.isLt
    apply BitVec.eq_of_toNat_eq
    rw [encode, toNat_assemble, BitVec.toNat_setWidth, toNat_slotField]
    simp only [BitVec.toNat_ofNat, show (0 : BitVec 12).toNat = 0 from rfl]
    omega
  · cases h

/-- A command whose word has its opcode and the fields of `c`. -/
theorem assemble_eq {c : Word} {opc : BitVec 8} {r j : BitVec 12} (hopc : (opcField c).toNat = opc.toNat)
    (hr : rField c = r) (hj : jField c = j) : assemble opc r j = c := by
  rw [← hr, ← hj, ← BitVec.eq_of_toNat_eq hopc, assemble_fields]

theorem encode_of_decode {c : Word} {i : Instr} (h : decode c = .ok i) : encode i = c := by
  rw [decode] at h
  split at h
  · next hopc => exact encode_of_formatZ h rfl hopc
  · next hopc => exact encode_of_formatZ h rfl hopc
  · next hopc => exact encode_of_formatS h hopc
  · next hopc => exact encode_of_formatZ h rfl hopc
  · next hopc => cases h; exact assemble_eq hopc rfl rfl
  · next hopc => exact encode_of_whenZero h fun row => assemble_eq hopc (beq_iff_eq.1 row) rfl
  · next hopc => cases h; exact assemble_eq hopc rfl rfl
  · next hopc => exact encode_of_formatZ h rfl hopc
  · next hopc => cases h; exact assemble_eq hopc rfl rfl
  · next hopc => exact encode_of_whenZero h fun row => assemble_eq hopc (beq_iff_eq.1 row) rfl
  · next hopc => cases h; exact assemble_eq hopc rfl rfl
  · next hopc => exact encode_of_formatZ h rfl hopc
  · next hopc => exact encode_of_formatZ h rfl hopc
  · next hopc => exact encode_of_formatZ h rfl hopc
  · cases h

/-! ### The phase over a step (R24, R214) -/

/-- A host write to a configuration register leads neither to `READY` nor out of `FAULT`. -/
theorem writeCfg_phase (c : Cfg) (s : State.Of p) :
    ((writeCfg c s).phase = .ready → s.phase = .ready) ∧ (s.phase = .fault → (writeCfg c s).phase = .fault) := by
  by_cases fault : s.phase = .fault
  · rw [writeCfg_inFault c fault]
    exact ⟨id, id⟩
  · rcases writeCfg_cases c fault with ⟨-, eq⟩ | ⟨-, eq⟩ <;> rw [eq]
    · exact ⟨nofun, fun h => absurd h fault⟩
    · exact ⟨id, id⟩

/-- Nor does one to a memory. -/
theorem writeElem_phase {sp : Space} {i : Nat} (hw : writable p sp i = true) (v : α) (s : State.Of p) :
    ((writeElem sp i v s).phase = .ready → s.phase = .ready) ∧
    (s.phase = .fault → (writeElem sp i v s).phase = .fault) := by
  by_cases fault : s.phase = .fault
  · rw [writeElem_inFault sp i v fault]
    exact ⟨id, id⟩
  · refine ⟨fun ready => ?_, fun h => absurd h fault⟩
    have stored : (s.setElem sp i v).phase = s.phase := (sameControl_setElem s sp i v).phase
    rcases writeElem_cases v fault hw with ⟨slot, -, -, eq⟩ | ⟨slot, -, -, eq⟩ | ⟨-, eq⟩ | ⟨-, eq⟩ <;>
      rw [eq] at ready
    · cases ready
    · exact stored ▸ ready
    · exact stored ▸ ready
    · exact stored ▸ ready

/-- R24 for a step: the word of `RESHAPE` in `CONFIGURED`, and the word of `RESET`. -/
theorem stepOn_phase {s t : State.Of p} (ht : stepOn s = .next t) :
    (t.phase = .ready → s.phase ≠ .ready → s.phase = .configured ∧
      ∃ q rest, s.pending = q :: rest ∧ q.commands p (encode .reshape)) ∧
    (s.phase = .fault → t.phase ≠ .fault → ∃ q rest, s.pending = q :: rest ∧ q.commands p (encode .reset)) := by
  rcases serveNext_cases ht with rfl | ⟨q, rest, pending, parts⟩
  · exact ⟨fun ready unready => absurd ready unready, fun fault active => absurd fault active⟩
  · rcases parts with ⟨r, rfl⟩ | ⟨n, v, c, -, -, rfl⟩ | ⟨sp, i, v, -, hw, rfl⟩ | ⟨c, i, hc, decoded, hi⟩ |
      ⟨c, e, -, -, active, rfl⟩
    · exact ⟨fun ready unready => absurd ready unready, fun fault active => absurd fault active⟩
    · obtain ⟨enter, leave⟩ := writeCfg_phase c (s.served rest .accepted)
      exact ⟨fun ready unready => absurd (enter ready) unready, fun fault active => absurd (leave fault) active⟩
    · obtain ⟨enter, leave⟩ := writeElem_phase hw v (s.served rest .accepted)
      exact ⟨fun ready unready => absurd (enter ready) unready, fun fault active => absurd (leave fault) active⟩
    · obtain ⟨enter, leave⟩ := execOn_phase hi
      have word := encode_of_decode decoded
      refine ⟨fun ready unready => ?_, fun fault active => ?_⟩
      · obtain ⟨rfl, configured⟩ := enter ready unready
        exact ⟨configured, q, rest, pending, word ▸ hc⟩
      · obtain rfl := leave fault active
        exact ⟨q, rest, pending, word ▸ hc⟩
    · exact ⟨nofun, fun fault => absurd fault active⟩

/-- Settles O51: of all a step can do only the effect of `RESHAPE` sets `READY`, and in `FAULT` only `RESET` has an
effect. -/
theorem onlyReshapeMakesReady : Obligations.OnlyReshapeMakesReady :=
  ⟨fun s _ ht => stepOn_phase (step_eq_stepOn s ▸ ht), fun i s _ ht => execOn_phase (exec_eq_execOn i s ▸ ht)⟩

/-! ### The register file (R23, R26, R28 to R32) -/

/-- `MODE` keeps bits 1:0 (R32). -/
theorem setWidth_setWidth_two (v : Word) : (v.setWidth 2).setWidth 32 = v &&& 3#32 := by
  apply BitVec.eq_of_toNat_eq
  have mask : v.toNat &&& 3 = v.toNat % 2 ^ 2 := Nat.and_two_pow_sub_one_eq_mod v.toNat 2
  simp only [BitVec.toNat_setWidth, BitVec.toNat_and, show (3#32).toNat = 3 from rfl, mask]
  omega

/-- A configuration register holds what was written, and no other one changes (R28, R32). -/
theorem readReg_writeReg {c d : Cfg} {n : Nat} {v : Word} (h : c.writeReg n v = some d) (m : Nat) :
    d.readReg m = if m = n then some (if n = 8 then v &&& 3#32 else v) else c.readReg m := by
  unfold Cfg.writeReg at h
  split at h
  case h_22 => cases h
  all_goals
    cases h
    unfold Cfg.readReg
    split <;> simp_all [setWidth_setWidth_two]

theorem exists_writeReg (c : Cfg) {n : Nat} (v : Word) (h : 8 ≤ n ∧ n ≤ 28) : ∃ d, c.writeReg n v = some d := by
  obtain ⟨low, high⟩ := h
  interval_cases n <;> exact ⟨_, rfl⟩

theorem writeReg_outside (c : Cfg) {n : Nat} (v : Word) (h : n < 8 ∨ 28 < n) : c.writeReg n v = none := by
  unfold Cfg.writeReg
  split
  case h_22 => rfl
  all_goals omega

theorem readReg_outside (c : Cfg) {n : Nat} (h : n < 8 ∨ 28 < n) : c.readReg n = none := by
  unfold Cfg.readReg
  split
  case h_22 => rfl
  all_goals omega

/-- Settles O3: a write replaces the one field of its number, and `readReg` reads that field under the same number. -/
theorem configRegisterReadsBack : Obligations.ConfigRegisterReadsBack := by
  refine ⟨fun c n v => ⟨fun inside => ?_, fun outside => ⟨writeReg_outside c v outside, readReg_outside c outside⟩⟩,
    fun c => by repeat' constructor⟩
  obtain ⟨d, hd⟩ := exists_writeReg c v inside
  exact ⟨d, hd, by rw [readReg_writeReg hd, if_pos rfl], fun m hm => by rw [readReg_writeReg hd, if_neg hm]⟩

theorem derivedReadReg_outside (d : Derived) {n : Nat} (h : n < 32 ∨ 40 < n) : d.readReg n = none := by
  unfold Derived.readReg
  split
  case h_10 => rfl
  all_goals omega

/-- `CMD` and the unmapped numbers read 0 (R29). -/
theorem readReg_unmapped (s : State.Of p) {n : Nat} (h : n = 1 ∨ (5 ≤ n ∧ n ≤ 7) ∨ (29 ≤ n ∧ n ≤ 31) ∨ 41 ≤ n) :
    s.readReg n = 0#32 := by
  unfold State.Of.readReg
  split
  case h_5 => rw [readReg_outside s.cfg (by omega), derivedReadReg_outside s.derived (by omega)]; rfl
  all_goals omega

/-! ### A field of a word that is a sum of fields -/

theorem getLsbD_ofNat_eq {n i : Nat} {b : Bool} (hi : i < 32) (h : n / 2 ^ i % 2 = b.toNat) :
    (BitVec.ofNat 32 n).getLsbD i = b := by
  rw [BitVec.getLsbD_ofNat, Nat.testBit_eq_decide_div_mod_eq, h]
  cases b <;> simp [hi]

theorem extractLsb'_ofNat_eq {n i w : Nat} {x : BitVec w} (hn : n < 2 ^ 32) (h : n / 2 ^ i % 2 ^ w = x.toNat) :
    (BitVec.ofNat 32 n).extractLsb' i w = x := by
  apply BitVec.eq_of_toNat_eq
  rw [BitVec.extractLsb'_toNat, BitVec.toNat_ofNat, Nat.mod_eq_of_lt hn, Nat.shiftRight_eq_div_pow, h]

/-- Settles O2: both words are sums of fields, each below the weight of the next. -/
theorem statusWordLayout : Obligations.StatusWordLayout := by
  intro s w tag
  have phase : s.phase.code.toNat < 2 ^ 3 := s.phase.code.isLt
  have cb := Bool.toNat_lt s.boundCb
  have bias := Bool.toNat_lt s.boundBias
  have idx := Bool.toNat_lt s.boundIdx
  have valid := Bool.toNat_lt s.lut.valid
  have err : s.err.toNat < 2 ^ 8 := s.err.isLt
  have kind : s.lut.kind.code.toNat < 2 ^ 2 := s.lut.kind.code.isLt
  have slice : s.lut.j.toNat < 2 ^ 12 := s.lut.j.isLt
  have row : s.lut.r.toNat < 2 ^ 12 := s.lut.r.isLt
  have reserved : false.toNat = 0 ∧ (0#14).toNat = 0 ∧ (0#8).toNat = 0 := ⟨rfl, rfl, rfl⟩
  refine ⟨(extractLsb'_ofNat_eq (x := s.phase.code) ?_ ?_).trans (by cases s.phase <;> rfl),
    getLsbD_ofNat_eq (b := false) ?_ ?_, getLsbD_ofNat_eq ?_ ?_, getLsbD_ofNat_eq ?_ ?_, getLsbD_ofNat_eq ?_ ?_,
    getLsbD_ofNat_eq ?_ ?_, extractLsb'_ofNat_eq ?_ ?_,
    (extractLsb'_ofNat_eq (x := s.lut.kind.code) ?_ ?_).trans (by cases s.lut.kind <;> rfl),
    extractLsb'_ofNat_eq ?_ ?_, extractLsb'_ofNat_eq ?_ ?_, extractLsb'_ofNat_eq ?_ ?_, extractLsb'_ofNat_eq ?_ ?_⟩
  all_goals omega

/-! ### Steps that serve one access (R29 to R31) -/

theorem step_access {s : State} {a : HostAccess Word} {rest : List (Request Word)}
    (h : s.pending = .access a :: rest) : step s = serveAccess exec a { s with pending := rest } := by
  rw [step, serveNext, h]
  rfl

/-- Settles O4: a read answers and does no more; the numbers are those of `readReg`. -/
theorem registerReadHasNoSideEffect : Obligations.RegisterReadHasNoSideEffect := by
  refine ⟨fun s n rest pending small => ⟨?_, readReg_unmapped s⟩, fun s => by repeat' constructor⟩
  rw [step_access pending, serveAccess, if_pos small]
  rfl

/-- R30: a write to a configuration register is accepted and stored. -/
theorem step_configWrite {s : State} {n : Nat} {v : Word} {rest : List (Request Word)} {c : Cfg}
    (pending : s.pending = .access (.regWrite n v) :: rest) (small : n < 64) (notCmd : n ≠ 1)
    (hc : s.cfg.writeReg n v = some c) : step s = .next (writeCfg c (s.served rest .accepted)) := by
  rw [step_access pending, serveAccess, if_pos small, regWrite, if_neg notCmd, accept_cfg, hc]
  rfl

/-- R29: a write to any other register but `CMD` is accepted and ignored. -/
theorem step_ignoredWrite {s : State} {n : Nat} {v : Word} {rest : List (Request Word)}
    (pending : s.pending = .access (.regWrite n v) :: rest) (small : n < 64) (notCmd : n ≠ 1)
    (hc : s.cfg.writeReg n v = none) : step s = .next (s.served rest .accepted) := by
  rw [step_access pending, serveAccess, if_pos small, regWrite, if_neg notCmd, accept_cfg, hc]
  rfl

/-- Settles O5: these numbers are neither `CMD` nor configuration registers. -/
theorem readOnlyRegisterWriteIgnored : Obligations.ReadOnlyRegisterWriteIgnored :=
  fun s _ v _ pending small notCmd outside =>
    step_ignoredWrite pending small notCmd (writeReg_outside s.cfg v outside)

/-- Settles O6, by the phase in which the write arrives. -/
theorem configWriteLeavesReady : Obligations.ConfigWriteLeavesReady := by
  intro s n v rest pending low high
  obtain ⟨c, hc⟩ := exists_writeReg s.cfg v ⟨low, high⟩
  have stored := step_configWrite pending (by omega) (by omega) hc
  refine ⟨fun fault => ?_, fun active => ⟨_, c, hc, by rw [readReg_writeReg hc, if_pos rfl], stored, ?_⟩⟩
  · rw [stored, writeCfg_inFault c (s := s.served rest .accepted) fault]
  · rcases writeCfg_cases c (s := s.served rest .accepted) active with ⟨ready, eq⟩ | ⟨unready, eq⟩ <;> rw [eq]
    · rw [if_pos (show s.phase = .ready from ready), if_pos (show s.phase = .ready from ready)]
      rfl
    · rw [if_neg (show s.phase ≠ .ready from unready), if_neg (show s.phase ≠ .ready from unready)]
      rfl

/-! ### The step that executes a command word (R31, R98) -/

theorem serveNext_commands {run : Instr → State.Of p → Result p} {s : State.Of p} {q : Request α} {c : Word}
    {rest : List (Request α)} (pending : s.pending = q :: rest) (commands : q.commands p c) :
    serveNext run s = execWord run c (s.served rest .accepted) := by
  rw [serveNext, pending]
  simp only [serve, commands]
  rfl

theorem execWord_decoded {run : Instr → State.Of p → Result p} {c : Word} {i : Instr} (h : decode c = .ok i)
    (s : State.Of p) : execWord run c s = run i s := by rw [execWord, h]

/-- Settles O20: serving such a request accepts it and executes its word. -/
theorem stepRunsDecodedCommand : Obligations.StepRunsDecodedCommand := by
  refine ⟨fun c => ⟨rfl, rfl⟩, fun s q c rest pending commands => ?_, fun α p s q c rest pending commands => ?_⟩
  · have executed : step s = execWord exec c (s.served rest .accepted) := serveNext_commands pending commands
    exact ⟨executed, fun i decoded => executed.trans (execWord_decoded decoded _)⟩
  · have executed : stepOn s = execWord execOn c (s.served rest .accepted) := serveNext_commands pending commands
    exact ⟨executed, fun i decoded => executed.trans (execWord_decoded decoded _)⟩

end Sys2Proof.Machine

/-! The obligations about host accesses (spec/20_memory.md): which are refused, what an accepted one reads or stores,
what an offset of the bus names, and that no access stops the machine.

An access is served in one step (`step_access`), so each statement is about `serveAccess`: when an access is accepted is
said once (`readable_iff`, `writable_iff`), and so is what the host's map names (`defaultHostMap_register`,
`defaultHostMap_window`, `defaultHostMap_none`). The canonical form of the memories is one more `StepRule`. -/

namespace Sys2Proof.Machine

variable {α : Type} {p : Params α}

/-! ### Every step answers a next state (R66, R202, R212) -/

theorem runCommand_answers (c : Word) (checks : List Check) (effect : State.Of p → State.Of p) (s : State.Of p) :
    ∃ t, runCommand c checks effect s = .next t := by
  rcases runCommand_cases c checks effect s with ⟨-, ignored⟩ | ⟨-, k, -, faulted⟩ | ⟨-, -, done⟩
  · exact ⟨_, ignored⟩
  · exact ⟨_, faulted⟩
  · exact ⟨_, done⟩

theorem execOn_answers (i : Instr) (s : State.Of p) : ∃ t, execOn i s = .next t := by
  by_cases reset : i = .reset
  · exact ⟨resetRegisters s, by rw [reset]; rfl⟩
  · rw [execOn_eq_runCommand reset]
    exact runCommand_answers _ _ _ s

theorem execWord_answers (c : Word) (s : State.Of p) : ∃ t, execWord execOn c s = .next t := by
  rw [execWord]
  split
  · exact execOn_answers _ s
  · split <;> exact ⟨_, rfl⟩

theorem serveAccess_answers (a : HostAccess α) (s : State.Of p) : ∃ t, serveAccess execOn a s = .next t := by
  cases a with
  | regRead n => rw [serveAccess]; split <;> exact ⟨_, rfl⟩
  | memRead sp i => rw [serveAccess]; split <;> exact ⟨_, rfl⟩
  | memWrite sp i v => rw [serveAccess]; split <;> exact ⟨_, rfl⟩
  | regWrite n v =>
    rw [serveAccess]
    split
    · rw [regWrite]
      split
      · exact execWord_answers v _
      · split <;> exact ⟨_, rfl⟩
    · exact ⟨_, rfl⟩

theorem serve_answers (q : Request α) (s : State.Of p) : ∃ t, serve execOn q s = .next t := by
  rw [serve]
  split
  · exact serveAccess_answers _ s
  · exact ⟨_, rfl⟩

theorem stepOn_cons {s : State.Of p} {q : Request α} {rest : List (Request α)} (pending : s.pending = q :: rest) :
    stepOn s = serve execOn q { s with pending := rest } := by rw [stepOn, serveNext, pending]

theorem stepOn_answers (s : State.Of p) : ∃ t, stepOn s = .next t := by
  cases pending : s.pending with
  | nil => exact ⟨s, by rw [stepOn, serveNext, pending]⟩
  | cons q rest => rw [stepOn_cons pending]; exact serve_answers q _

theorem runProgram_cons {q : Request α} {s t : State.Of p} (served : serve execOn q s = .next t)
    (program : List (Request α)) : runProgram (q :: program) s = runProgram program t := by rw [runProgram, served]

theorem runProgram_answers (program : List (Request α)) (s : State.Of p) : ∃ t, runProgram program s = .next t := by
  induction program generalizing s with
  | nil => exact ⟨s, rfl⟩
  | cons q program ih =>
    obtain ⟨t, served⟩ := serve_answers q s
    rw [runProgram_cons served]
    exact ih t

/-- Settles O53: a request is refused, answered, stored or executed, and a command ignored, faulted or done: each is a
next state. -/
theorem everyStepHasNextState : Obligations.EveryStepHasNextState := by
  refine ⟨fun s => step_eq_stepOn s ▸ stepOn_answers s,
    fun α p s => ⟨fun program => runProgram_answers program s, fun q rest pending => ?_⟩⟩
  obtain ⟨t, served⟩ := serve_answers q { s with pending := rest }
  rw [stepOn_cons pending, runProgram_cons served, served, runProgram]

/-! ### The block in `FAULT` (R83, R213) -/

/-- In `FAULT` a request that is not the write of the `RESET` word is answered, and no more. -/
theorem serve_inFault {s : State.Of p} {q : Request α} (fault : s.phase = .fault)
    (notReset : ¬ q.commands p (encode .reset)) (rest : List (Request α)) :
    ∃ r, serve execOn q { s with pending := rest } = .next (s.served rest r) := by
  cases named : q.translate p with
  | none => exact ⟨.refused, by rw [serve, named]; rfl⟩
  | some a =>
    obtain ⟨t, served⟩ := serveAccess_answers a { s with pending := rest }
    have acceptedFault : (s.served rest .accepted).phase = .fault := fault
    have frozen : ∃ r, t = s.served rest r := by
      rcases serveAccess_cases served with
        ⟨r, same⟩ | ⟨n, v, c, -, -, rfl⟩ | ⟨sp, i, v, -, -, rfl⟩ | ⟨c, i, rfl, decoded, ran⟩ | ⟨c, e, -, -, active, -⟩
      · exact ⟨r, same⟩
      · exact ⟨.accepted, writeCfg_inFault c acceptedFault⟩
      · exact ⟨.accepted, writeElem_inFault sp i v acceptedFault⟩
      · have otherCommand : i ≠ .reset := by
          rintro rfl
          exact notReset (encode_of_decode decoded ▸ named)
        rw [execOn_inFault acceptedFault otherCommand] at ran
        cases ran
        exact ⟨.accepted, rfl⟩
      · exact absurd fault active
    obtain ⟨r, rfl⟩ := frozen
    exact ⟨r, by rw [serve, named]; exact served⟩

/-- Settles O7: writes are ignored in `FAULT`, and the one word whose command is not ignored is that of `RESET`. -/
theorem faultFreezesBlock : Obligations.FaultFreezesBlock := by
  refine ⟨fun s q rest fault pending notReset => ?_, fun s i fault other => ?_⟩
  · rw [step_eq_stepOn, stepOn_cons pending]
    exact serve_inFault fault notReset rest
  · rw [exec_eq_execOn]
    exact execOn_inFault fault other

/-! ### Which accesses to a memory are accepted (R62, R67, R69) -/

theorem readable_iff (s : State.Of p) (sp : Space) (i : Nat) :
    s.readable sp i = true ↔ i < p.capacity sp ∧
      (sp = .decmem → s.phase = .ready ∧ i < s.derived.count.toNat) ∧
      (sp = .lutmem → s.phase = .ready ∧ s.lut.valid = true ∧ i < s.lutLen) := by
  cases sp <;> simp [State.Of.readable, and_assoc]

theorem writable_iff (sp : Space) (i : Nat) :
    writable p sp i = true ↔ i < p.capacity sp ∧ sp ≠ .decmem ∧ sp ≠ .lutmem := by
  cases sp <;> simp [writable]

theorem step_memRead {s : State} {sp : Space} {i : Nat} {rest : List (Request Word)}
    (pending : s.pending = .access (.memRead sp i) :: rest) :
    step s = .next (s.served rest (if s.readable sp i then .value (s.elem sp i) else .refused)) := by
  rw [step_access pending]
  by_cases window : s.readable sp i
  · rw [if_pos window]
    exact if_pos window
  · rw [if_neg window]
    exact if_neg window

theorem step_memWrite {s : State} {sp : Space} {i : Nat} {v : Word} {rest : List (Request Word)}
    (pending : s.pending = .access (.memWrite sp i v) :: rest) (accepted : writable reference sp i = true) :
    step s = .next (writeElem sp i v (s.served rest .accepted)) := by
  rw [step_access pending]
  exact if_pos accepted

theorem step_refusedWrite {s : State} {sp : Space} {i : Nat} {v : Word} {rest : List (Request Word)}
    (pending : s.pending = .access (.memWrite sp i v) :: rest) (refused : ¬ writable reference sp i = true) :
    step s = .next (s.served rest .refused) := by
  rw [step_access pending]
  exact if_neg refused

/-- Settles O8, by the kind of access. -/
theorem refusedAccessChangesNothing : Obligations.RefusedAccessChangesNothing := by
  intro s rest a pending refused
  rcases refused with ⟨n, rfl, large⟩ | ⟨n, v, rfl, large⟩ | ⟨sp, i, rfl, large⟩ | ⟨sp, i, v, rfl, outside⟩
  · rw [step_access pending]
    exact if_neg large.not_gt
  · rw [step_access pending]
    exact if_neg large.not_gt
  · have unreadable : ¬ s.readable sp i = true := fun window => large.not_gt ((readable_iff s sp i).1 window).1
    rw [step_memRead pending, if_neg unreadable]
  · refine step_refusedWrite pending fun accepted => ?_
    obtain ⟨below, notDec, notLut⟩ := (writable_iff sp i).1 accepted
    rcases outside with large | dec | lut
    · exact large.not_gt below
    · exact notDec dec
    · exact notLut lut

/-- Settles O9: `readable_iff` is these windows, and `lutLen` the length by kind. -/
theorem memoryReadWindows : Obligations.MemoryReadWindows := by
  intro s sp i rest pending below
  rw [step_memRead pending]
  have below : i < reference.capacity sp := below
  refine ⟨fun notDec notLut => ?_, ?_, ?_⟩
  · rw [if_pos ((readable_iff s sp i).2 ⟨below, fun dec => absurd dec notDec, fun lut => absurd lut notLut⟩)]
  · rintro rfl
    have window : s.readable .decmem i = true ↔ s.phase = .ready ∧ i < s.derived.count.toNat := by
      simp [readable_iff, below, -reference_capacity]
    exact congrArg (fun r => Host.Outcome.next (s.served rest r)) (if_congr window rfl rfl)
  · rintro rfl
    have window : s.readable .lutmem i = true ↔ s.phase = .ready ∧ s.lut.valid = true ∧ i < s.lutLen := by
      simp [readable_iff, below, -reference_capacity]
    exact congrArg (fun r => Host.Outcome.next (s.served rest r)) (if_congr window rfl rfl)

/-! ### What an accepted write does to the block (R68, R69) -/

@[simp] theorem elem_setElem (s : State.Of p) (sp : Space) (i e : Nat) (v : α) :
    (s.setElem sp i v).elem sp e = if i = e then v else s.elem sp e := by
  simp [State.Of.elem, State.Of.setElem]

/-- A state whose memory of the space is that of `setElem` holds the element written and the others as they were. -/
theorem elem_of_mem_setElem {s t : State.Of p} {sp : Space} {i : Nat} {v : α}
    (stored : t.mem sp = (s.setElem sp i v).mem sp) :
    t.elem sp i = v ∧ ∀ e, e ≠ i → t.elem sp e = s.elem sp e := by
  have element : ∀ e, t.elem sp e = if i = e then v else s.elem sp e := fun e => by
    rw [← elem_setElem, State.Of.elem, stored, State.Of.elem]
  exact ⟨by rw [element, if_pos rfl], fun e other => by rw [element, if_neg other.symm]⟩

theorem writeElem_bound {sp : Space} {sl : Slot} {s : State.Of p} (active : s.phase ≠ .fault)
    (slot : paramSlot sp = some sl) (bound : s.bound sl = true) (i : Nat) (v : α) :
    writeElem sp i v s = ((s.setElem sp i v).setBound sl false).leaveReady .uninit := by
  rw [writeElem, if_neg active, slot]
  exact if_pos bound

theorem writeElem_unbound {sp : Space} {sl : Slot} {s : State.Of p} (active : s.phase ≠ .fault)
    (slot : paramSlot sp = some sl) (unbound : s.bound sl = false) (i : Nat) (v : α) :
    writeElem sp i v s = s.setElem sp i v := by
  rw [writeElem, if_neg active, slot]
  exact if_neg (by simp [unbound])

theorem writeElem_inmem {s : State.Of p} (active : s.phase ≠ .fault) (i : Nat) (v : α) :
    writeElem .inmem i v s = (s.setElem .inmem i v).dropTable := if_neg active

theorem writeElem_outmem {s : State.Of p} (active : s.phase ≠ .fault) (i : Nat) (v : α) :
    writeElem .outmem i v s = s.setElem .outmem i v := if_neg active

/-- Unbinding a slot leaves the slot's memory alone. -/
theorem mem_unbind (s : State.Of p) (sl : Slot) (phase : Phase) :
    ((s.setBound sl false).leaveReady phase).mem sl.space = s.mem sl.space := by cases sl <;> rfl

/-- Settles O10: by the phase, and by whether the slot of the memory is bound. -/
theorem parameterWriteUnbinds : Obligations.ParameterWriteUnbinds := by
  intro s sp sl i v rest pending slot below
  obtain rfl := paramSlot_eq_some slot
  have accepted : writable reference sl.space i = true :=
    (writable_iff sl.space i).2 ⟨below, by cases sl <;> nofun, by cases sl <;> nofun⟩
  rw [step_memWrite pending accepted]
  refine ⟨fun fault => by rw [writeElem_inFault (s := s.served rest .accepted) _ i v fault], fun active => ?_⟩
  have active : (s.served rest .accepted).phase ≠ .fault := active
  refine ⟨_, rfl, ?_⟩
  cases bound : s.bound sl with
  | false =>
    rw [writeElem_unbound active slot bound]
    obtain ⟨written, others⟩ := elem_of_mem_setElem (t := (s.served rest .accepted).setElem sl.space i v) rfl
    exact ⟨written, others, fun _ => by cases sl <;> rfl, nofun⟩
  | true =>
    rw [writeElem_bound active slot bound]
    obtain ⟨written, others⟩ :=
      elem_of_mem_setElem (mem_unbind ((s.served rest .accepted).setElem sl.space i v) sl .uninit)
    exact ⟨written, others, nofun, fun _ => ⟨by cases sl <;> rfl, by cases sl <;> rfl⟩⟩

/-- Settles O11, by the memory written. -/
theorem inputAndOutputWrites : Obligations.InputAndOutputWrites := by
  intro s i v rest
  refine ⟨fun active pending below => ?_, fun active pending below => ?_, fun pending => ?_⟩
  · rw [step_memWrite pending ((writable_iff _ i).2 ⟨below, nofun, nofun⟩),
      writeElem_inmem (s := s.served rest .accepted) active]
    exact ⟨_, rfl, rfl, elem_of_mem_setElem (s := s.served rest .accepted) rfl⟩
  · rw [step_memWrite pending ((writable_iff _ i).2 ⟨below, nofun, nofun⟩),
      writeElem_outmem (s := s.served rest .accepted) active]
    exact ⟨_, rfl, rfl, elem_of_mem_setElem (s := s.served rest .accepted) rfl⟩
  · rcases pending with pending | pending
    · exact step_refusedWrite pending fun accepted => ((writable_iff _ i).1 accepted).2.1 rfl
    · exact step_refusedWrite pending fun accepted => ((writable_iff _ i).1 accepted).2.2 rfl

/-! ### Accesses on the bus (R62, R64) -/

/-- The read of a place in the block's own terms. -/
def readAt : Place → HostAccess α
  | .register n => .regRead n
  | .element sp i => .memRead sp i

/-- The write of a place in the block's own terms; a register takes the word in the element sent (log 16). -/
def writeAt (p : Params α) (v : α) : Place → HostAccess α
  | .register n => .regWrite n (p.toWord v)
  | .element sp i => .memWrite sp i v

theorem translate_read (offset bytes : Nat) :
    (BusAccess.read offset bytes).translate p = (p.hostMap offset bytes).map readAt := by
  rw [BusAccess.translate]
  rcases p.hostMap offset bytes with - | ⟨n⟩ | ⟨sp, i⟩ <;> rfl

theorem translate_write (offset bytes : Nat) (v : α) :
    (BusAccess.write offset bytes v).translate p = (p.hostMap offset bytes).map (writeAt p v) := by
  rw [BusAccess.translate]
  rcases p.hostMap offset bytes with - | ⟨n⟩ | ⟨sp, i⟩ <;> rfl

theorem step_bus_some {b : BusAccess Word} {a : HostAccess Word} (meant : b.translate reference = some a) (s : State)
    (rest : List (Request Word)) :
    step { s with pending := .bus b :: rest } = step { s with pending := .access a :: rest } := by
  simp only [step, serveNext, serve, translate_bus, translate_access, meant]

theorem step_bus_none {b : BusAccess Word} (meaningless : b.translate reference = none) (s : State)
    (rest : List (Request Word)) :
    step { s with pending := .bus b :: rest } = .next (s.served rest .refused) := by
  simp only [step, serveNext, serve, translate_bus, meaningless]
  rfl

theorem step_bus_named {offset bytes : Nat} {place : Place} (named : defaultHostMap offset bytes = some place)
    (s : State) (v : Word) (rest : List (Request Word)) :
    step { s with pending := .bus (.read offset bytes) :: rest } =
      step { s with pending := .access (readAt place) :: rest } ∧
    step { s with pending := .bus (.write offset bytes v) :: rest } =
      step { s with pending := .access (writeAt reference v place) :: rest } :=
  ⟨step_bus_some (by rw [translate_read, reference_hostMap, named, Option.map_some]) s rest,
    step_bus_some (by rw [translate_write, reference_hostMap, named, Option.map_some]) s rest⟩

theorem step_bus_unnamed {offset bytes : Nat} (unnamed : defaultHostMap offset bytes = none) (s : State) (v : Word)
    (rest : List (Request Word)) :
    step { s with pending := .bus (.read offset bytes) :: rest } = .next (s.served rest .refused) ∧
    step { s with pending := .bus (.write offset bytes v) :: rest } = .next (s.served rest .refused) :=
  ⟨step_bus_none (by rw [translate_read, reference_hostMap, unnamed, Option.map_none]) s rest,
    step_bus_none (by rw [translate_write, reference_hostMap, unnamed, Option.map_none]) s rest⟩

theorem defaultHostMap_register {n : Nat} (h : n < 64) : defaultHostMap (4 * n) 4 = some (.register n) := by
  have window : 4 * n / 0x01000000 = 0 := by omega
  have inside : 4 * n % 0x01000000 = 4 * n := by omega
  simp [defaultHostMap, window, inside, h]

/-- An aligned offset in the window of a space names the element if it is below the capacity, and else nothing. -/
theorem defaultHostMap_window {window i : Nat} {sp : Space} (space : windowSpace window = some sp)
    (inWindow : 4 * i < 0x01000000) :
    defaultHostMap (window * 0x01000000 + 4 * i) 4 =
      if i < Config.capacity sp then some (.element sp i) else none := by
  have nonzero : window ≠ 0 := by rintro rfl; cases space
  have high : (window * 0x01000000 + 4 * i) / 0x01000000 = window := by omega
  have low : (window * 0x01000000 + 4 * i) % 0x01000000 = 4 * i := by omega
  simp [defaultHostMap, high, low, nonzero, space]

theorem windowSpace_eq_none {window : Nat} (h : 8 ≤ window) : windowSpace window = none := by
  unfold windowSpace
  split
  case h_8 => rfl
  all_goals omega

/-- Another size, no alignment, past the registers, past the last window: nothing is named (R62). -/
theorem defaultHostMap_none {offset bytes : Nat} (h : bytes ≠ 4 ∨ offset % 4 ≠ 0 ∨
    (0x100 ≤ offset ∧ offset < 0x01000000) ∨ 0x08000000 ≤ offset) : defaultHostMap offset bytes = none := by
  rw [defaultHostMap]
  split
  · next accepted =>
    obtain ⟨size, aligned⟩ := accepted
    split
    · next registers => exact if_neg (by omega)
    · next memories => rw [windowSpace_eq_none (by omega)]
  · rfl

theorem windowSpace_of_mem {window : Nat} {sp : Space}
    (h : (window, sp) ∈ [(1, Space.cbmem), (2, .biasmem), (3, .idxmem), (4, .inmem), (5, .outmem), (6, .decmem),
      (7, .lutmem)]) : windowSpace window = some sp := by
  simp only [List.mem_cons, Prod.mk.injEq, List.not_mem_nil, or_false] at h
  rcases h with ⟨rfl, rfl⟩ | ⟨rfl, rfl⟩ | ⟨rfl, rfl⟩ | ⟨rfl, rfl⟩ | ⟨rfl, rfl⟩ | ⟨rfl, rfl⟩ | ⟨rfl, rfl⟩ <;> rfl

/-- Settles O13: serving a bus access is serving what the map names, and the map is computed from the offset's window
and its place in it. -/
theorem busAccessFollowsHostMap : Obligations.BusAccessFollowsHostMap := by
  intro s offset bytes v rest next read write refused
  refine ⟨fun n small size place => ?_, fun window sp i space size inWindow place => ?_,
    fun outside => step_bus_unnamed (defaultHostMap_none outside) s v rest⟩
  · have named : defaultHostMap offset bytes = some (.register n) := by
      rw [size, place, defaultHostMap_register small]
    exact step_bus_named named s v rest
  · have named : defaultHostMap offset bytes = if i < Config.capacity sp then some (.element sp i) else none := by
      rw [size, place, defaultHostMap_window (windowSpace_of_mem space) inWindow]
    exact ⟨fun below => step_bus_named (named.trans (if_pos below)) s v rest,
      fun above => step_bus_unnamed (named.trans (if_neg above.not_gt)) s v rest⟩

/-! ### The canonical form of the memories (log 7) -/

section Canonical

variable {s : State.Of p}

theorem State.Of.Canonical.withMem (h : s.Canonical) (sp : Space) {m : Memory α} (hm : m.wf) :
    (s.withMem sp m).Canonical := by
  intro sp'
  rw [withMem_mem]
  split
  · exact hm
  · exact h sp'

theorem State.Of.Canonical.dropTable (h : s.Canonical) : s.dropTable.Canonical := h.withMem .lutmem .nil

theorem State.Of.Canonical.dropCaches (h : s.Canonical) : ((s.withMem .lutmem []).withMem .decmem []).Canonical :=
  (h.withMem .lutmem .nil).withMem .decmem .nil

theorem State.Of.Canonical.loadTable (h : s.Canonical) (tag : LutTag) (entries : List α) :
    (s.loadTable tag entries).Canonical := h.withMem .lutmem (Memory.wf_ofList 0 entries)

theorem State.Of.Canonical.gather (h : s.Canonical) (contributions : List (Nat × α)) :
    (s.gather contributions).Canonical :=
  (h.withMem .outmem (Memory.wf_scatterAdd (h .outmem) contributions)).dropTable

theorem State.Of.Canonical.zero (h : s.Canonical) : (zeroEffect s).Canonical :=
  h.withMem .outmem (Memory.wf_fill (h .outmem) _ _)

theorem State.Of.Canonical.bias (h : s.Canonical) : (biasEffect s).Canonical :=
  h.withMem .outmem (Memory.wf_scatterAdd (h .outmem) _)

theorem State.Of.Canonical.spatialImage (h : s.Canonical) (n : Nat) : (spatialImage s n).Canonical :=
  List.foldlRecOn _ _ h fun _ ht _ _ => (ht.loadTable _ _).gather _

theorem State.Of.Canonical.setElem (h : s.Canonical) (sp : Space) (i : Nat) (v : α) : (s.setElem sp i v).Canonical :=
  h.withMem sp (Memory.wf_write (h sp) i v)

theorem State.Of.Canonical.rebuild (h : s.Canonical) : (rebuild s).Canonical :=
  (h.withMem .decmem (Memory.wf_ofList 0 s.decodedIndices)).dropTable

theorem State.Of.Canonical.commandEffect (h : s.Canonical) (i : Instr) : (commandEffect i s).Canonical := by
  cases i with
  | nop => exact h
  | reset => exact h.dropCaches
  | bind slot =>
    obtain ⟨f, b0, b1, b2, eq⟩ := bindEffect_frame slot s
    rw [Machine.commandEffect, eq]
    exact h
  | reshape =>
    rw [Machine.commandEffect, reshapeEffect]
    split
    · exact h
    · exact h.rebuild
  | mulv r j => exact h.loadTable _ _
  | mulb j => exact h.loadTable _ _
  | muls n j => exact h.loadTable _ _
  | zero => exact h.zero
  | gacv r j => exact h.gather _
  | gacb j => exact h.gather _
  | gacs n j => exact h.gather _
  | bias => exact h.bias
  | fwdl =>
    have slices : ((List.range s.derived.numSlices.toNat).foldl linearSlice (zeroEffect s)).Canonical :=
      List.foldlRecOn _ _ h.zero fun _ ht _ _ => (ht.loadTable _ _).gather _
    exact slices.bias
  | fwds =>
    have images : ((List.range s.cfg.batch.toNat).foldl Machine.spatialImage (zeroEffect s)).Canonical :=
      List.foldlRecOn _ _ h.zero fun _ ht n _ => ht.spatialImage n
    exact images.bias

theorem State.Of.Canonical.writeElem (h : s.Canonical) (active : s.phase ≠ .fault) {sp : Space} {i : Nat}
    (hw : writable p sp i = true) (v : α) : (writeElem sp i v s).Canonical := by
  have stored := h.setElem sp i v
  rcases writeElem_cases v active hw with ⟨slot, -, -, eq⟩ | ⟨slot, -, -, eq⟩ | ⟨-, eq⟩ | ⟨-, eq⟩ <;> rw [eq]
  · cases slot <;> exact stored.dropCaches
  · exact stored
  · exact stored.dropTable
  · exact stored

end Canonical

theorem canonical_rule : StepRule (p := p) State.Of.Canonical State.Of.Canonical where
  idle _ h := h
  bus _ _ _ h := h
  config s c h active := by
    rcases writeCfg_cases c active with ⟨-, eq⟩ | ⟨-, eq⟩ <;> rw [eq]
    · exact h.dropCaches
    · exact h.dropTable
  element _ _ _ v h active hw := h.writeElem active hw v
  fault _ _ _ _ h _ := h
  reset _ h := h.commandEffect .reset
  bind _ slot h _ := h.commandEffect (.bind slot)
  rebuild _ _ h _ _ _ := h.rebuild
  compute _ i h _ _ _ := h.commandEffect i

/-- Settles O58: each memory is written element by element, loaded from a list, or emptied. -/
theorem stepKeepsMemoriesCanonical : Obligations.StepKeepsMemoriesCanonical :=
  fun s _ h ht => canonical_rule.step h (step_eq_stepOn s ▸ ht)

end Sys2Proof.Machine

/-! The obligations about the command word (spec/30_encoding.md): the decoder and the encoder are inverse, the two
columns of the opcode map pick the command, and which words are illegal.

That a word which decodes is its command's word is `encode_of_decode`. The other direction, `decode_encode`, is read off
the fields of the assembled word. The rest follows from the two: a word that meets a row of the map is the word of that
row's command with the word's own fields as operands (`encode_withFieldsOf`), and a word that is no command's is one of
the three kinds of R94 (`decode_error_cases`). -/

namespace Sys2Proof.Machine

variable {α : Type} {p : Params α}

/-! ### Decoding an encoded command (R90 to R93) -/

/-- The slot number fills bits 1:0 of the `J` field it is put in. -/
theorem slotField_assemble (opc : BitVec 8) (r : BitVec 12) (slot : BitVec 2) :
    slotField (assemble opc r (slot.setWidth 12)) = slot := by
  have := slot.isLt
  apply BitVec.eq_of_toNat_eq
  rw [toNat_slotField, toNat_assemble, BitVec.toNat_setWidth]
  omega

theorem slotPadField_assemble (opc : BitVec 8) (r : BitVec 12) (slot : BitVec 2) :
    slotPadField (assemble opc r (slot.setWidth 12)) = 0 := by
  have := slot.isLt
  apply BitVec.eq_of_toNat_eq
  rw [toNat_slotPadField, toNat_assemble, BitVec.toNat_setWidth, show (0 : BitVec 10).toNat = 0 from rfl]
  omega

theorem decode_encode {i : Instr} (h : i.wellFormed = true) : decode (encode i) = .ok i := by
  cases i with
  | nop | reset | reshape | zero | bias | fwdl | fwds => rfl
  | bind slot =>
    have legal : slot ≠ 3#2 := bne_iff_ne.1 h
    simp [decode, encode, formatS, slotField_assemble, slotPadField_assemble, legal]
  | mulb j | gacb j => simp [decode, encode, whenZero]
  | mulv r j | muls r j | gacv r j | gacs r j => simp [decode, encode]

/-- Settles O14: the fields of the assembled word are the opcode and the operands. -/
theorem decodeEncodeRoundTrip : Obligations.DecodeEncodeRoundTrip := fun _ h => decode_encode h

/-! ### Every decoded command is well formed (R93, R94) -/

theorem eq_bind_three_of_illFormed {i : Instr} (h : ¬ i.wellFormed = true) : i = .bind 3 := by
  cases i with
  | bind slot => rw [Instr.wellFormed, bne_iff_ne, not_not] at h; rw [h]; rfl
  | _ => exact absurd rfl h

theorem decode_bind_three : decode (encode (.bind 3)) = .error .bindSlotThree := rfl

theorem wellFormed_of_decode {c : Word} {i : Instr} (h : decode c = .ok i) : i.wellFormed = true := by
  by_contra illFormed
  have word : encode (.bind 3) = c := eq_bind_three_of_illFormed illFormed ▸ encode_of_decode h
  rw [← word, decode_bind_three] at h
  cases h

/-- Settles O15: the one term that is not well formed is `bind 3`, and its word does not decode. -/
theorem decodedWordIsItsEncoding : Obligations.DecodedWordIsItsEncoding :=
  fun _ _ h => ⟨wellFormed_of_decode h, encode_of_decode h⟩

/-! ### The mask and match columns of the opcode map (R93) -/

/-- The command of the row of an instruction whose operands are the fields of the word `c` (R91). -/
def withFieldsOf (c : Word) : Instr → Instr
  | .bind _ => .bind (slotField c)
  | .mulv _ _ => .mulv (rField c) (jField c)
  | .mulb _ => .mulb (jField c)
  | .muls _ _ => .muls (rField c) (jField c)
  | .gacv _ _ => .gacv (rField c) (jField c)
  | .gacb _ => .gacb (jField c)
  | .gacs _ _ => .gacs (rField c) (jField c)
  | .nop => .nop
  | .reset => .reset
  | .reshape => .reshape
  | .zero => .zero
  | .bias => .bias
  | .fwdl => .fwdl
  | .fwds => .fwds

theorem matchBits_withFieldsOf (c : Word) (i : Instr) : matchBits (withFieldsOf c i) = matchBits i := by
  cases i <;> rfl

theorem maskBits_withFieldsOf (c : Word) (i : Instr) : maskBits (withFieldsOf c i) = maskBits i := by
  cases i <;> rfl

/-- A word whose bits 31:24 are `opc`. -/
theorem assemble_of_and_opcode {c : Word} {opc : BitVec 8} (h : c &&& 0xFF000000#32 = assemble opc 0 0) :
    assemble opc (rField c) (jField c) = c := by
  rw [← assemble_fields c, Laws.assemble_and_opcode] at h
  have opcode : opcField c = opc := by simpa using congrArg opcField h
  rw [← opcode, assemble_fields]

/-- A word whose bits from `k` up are those of an assembled word without operands, as a number. -/
theorem toNat_of_and_highMask {c m : Word} {opc : BitVec 8} (h : c &&& m = assemble opc 0 0) (k : Nat)
    (hm : m.toNat = 2 ^ 32 - 2 ^ k) (hk : k ≤ 32) : c.toNat = opc.toNat * 2 ^ 24 + c.toNat % 2 ^ k := by
  have high : c.toNat / 2 ^ k * 2 ^ k = opc.toNat * 2 ^ 24 := by
    rw [← toNat_and_highMask c k m hm hk, h, toNat_assemble, show (0 : BitVec 12).toNat = 0 from rfl, Nat.zero_mul,
      Nat.add_zero]
  rw [← high, Nat.div_add_mod']

/-- A word whose bits 31:24 are `opc` and whose field `R` is zero. -/
theorem assemble_of_and_opcode_row {c : Word} {opc : BitVec 8} (h : c &&& 0xFFFFF000#32 = assemble opc 0 0) :
    assemble opc 0 (jField c) = c := by
  have number := toNat_of_and_highMask h 12 (by decide) (by decide)
  apply BitVec.eq_of_toNat_eq
  rw [toNat_assemble, toNat_jField, show (0 : BitVec 12).toNat = 0 from rfl]
  omega

/-- A word whose bits 31:24 are `opc` and whose bits 23:2 are zero. -/
theorem assemble_of_and_opcode_slot {c : Word} {opc : BitVec 8} (h : c &&& 0xFFFFFFFC#32 = assemble opc 0 0) :
    assemble opc 0 ((slotField c).setWidth 12) = c := by
  have number := toNat_of_and_highMask h 2 (by decide) (by decide)
  apply BitVec.eq_of_toNat_eq
  rw [toNat_assemble, BitVec.toNat_setWidth, toNat_slotField, show (0 : BitVec 12).toNat = 0 from rfl]
  omega

theorem encode_withFieldsOf {c : Word} {i : Instr} (h : c &&& maskBits i = matchBits i) :
    encode (withFieldsOf c i) = c := by
  cases i with
  | nop | reset | reshape | zero | bias | fwdl | fwds => exact (BitVec.and_allOnes.symm.trans h).symm
  | bind slot => exact assemble_of_and_opcode_slot h
  | mulb j | gacb j => exact assemble_of_and_opcode_row h
  | mulv r j | muls r j | gacv r j | gacs r j => exact assemble_of_and_opcode h

/-- Settles O16: the command of the row with the word's own fields has that word, so the word decodes to it. -/
theorem maskAndMatchSelectCommand : Obligations.MaskAndMatchSelectCommand := by
  intro c i row notBindThree
  have word : encode (withFieldsOf c i) = c := encode_withFieldsOf row
  have legal : (withFieldsOf c i).wellFormed = true := by
    by_contra illFormed
    rw [eq_bind_three_of_illFormed illFormed] at word
    exact notBindThree word.symm
  have decoded := decode_encode legal
  rw [word] at decoded
  exact ⟨withFieldsOf c i, decoded, matchBits_withFieldsOf c i, maskBits_withFieldsOf c i⟩

/-! ### The word of a command (R96) -/

/-- The word of R96. Bit by bit: `j` has no bit from 12 up and `r`, shifted, none outside 23:12. -/
theorem assemble_eq_or (opc : BitVec 8) (r j : BitVec 12) :
    assemble opc r j = opc.setWidth 32 <<< 24 ||| r.setWidth 32 <<< 12 ||| j.setWidth 32 := by
  apply BitVec.eq_of_getLsbD_eq
  intro k hk
  have row := r.getLsbD_of_ge
  have column := j.getLsbD_of_ge
  simp only [assemble, BitVec.getLsbD_append, BitVec.getLsbD_or, BitVec.getLsbD_shiftLeft, BitVec.getLsbD_setWidth]
  grind

theorem encode_bind_eq_or (slot : BitVec 2) : encode (.bind slot) = 0x02000000#32 ||| slot.setWidth 32 := by
  rw [encode, assemble_eq_or, BitVec.setWidth_setWidth (by decide)]
  rfl

/-- Settles O17: each word is the `or` of its fields, and the fields a format does not have are 0. -/
theorem encodingFormula : Obligations.EncodingFormula := fun r j s =>
  ⟨assemble_eq_or _ r j, assemble_eq_or _ r j, assemble_eq_or _ r j, assemble_eq_or _ r j, assemble_eq_or _ 0 j,
    assemble_eq_or _ 0 j, encode_bind_eq_or s, rfl, rfl, rfl, rfl, rfl, rfl, rfl⟩

/-! ### Illegal words (R94) -/

theorem mem_definedOpcodes_iff (opc : BitVec 8) : opc ∈ definedOpcodes ↔ opc.toNat ∈ definedOpcodes.map BitVec.toNat :=
  (List.mem_map_of_injective BitVec.toNat_injective).symm

theorem opcField_encode_mem (i : Instr) : opcField (encode i) ∈ definedOpcodes := by
  cases i <;> rw [encode, opcField_assemble] <;> decide

/-- A word whose bits 23:2 are zero, as format `S` wants it (R91). -/
theorem assemble_slotField {c : Word} (row : rField c = 0) (pad : slotPadField c = 0) :
    assemble (opcField c) 0 ((slotField c).setWidth 12) = c := by
  have column : (slotField c).setWidth 12 = jField c := by
    have zero : c.toNat / 2 ^ 2 % 2 ^ 10 = 0 := toNat_slotPadField c ▸ congrArg BitVec.toNat pad
    apply BitVec.eq_of_toNat_eq
    rw [BitVec.toNat_setWidth, toNat_slotField, toNat_jField]
    omega
  rw [column, ← row, assemble_fields]

theorem whenZero_error {b : Bool} {i : Instr} {e : Illegal} (h : whenZero b i = .error e) : e = .nonzeroField := by
  rw [whenZero] at h
  split at h <;> cases h
  rfl

theorem formatS_error {c : Word} {e : Illegal} (h : formatS c = .error e) :
    e = .nonzeroField ∨ e = .bindSlotThree ∧ c = assemble (opcField c) 0 3 := by
  rw [formatS] at h
  split at h
  · next zero =>
    split at h <;> cases h
    have three : slotField c = 3#2 := beq_iff_eq.1 ‹_›
    rw [Bool.and_eq_true, beq_iff_eq, beq_iff_eq] at zero
    have word := assemble_slotField zero.1 zero.2
    rw [three] at word
    exact .inr ⟨rfl, word.symm⟩
  · cases h
    exact .inl rfl

/-- R94: the three kinds of illegal word. -/
theorem decode_error_cases {c : Word} {e : Illegal} (h : decode c = .error e) :
    (e = .reservedOpcode ∧ opcField c ∉ definedOpcodes) ∨
    (e = .nonzeroField ∧ opcField c ∈ definedOpcodes) ∨
    (e = .bindSlotThree ∧ c = 0x02000003#32) := by
  rw [mem_definedOpcodes_iff]
  rw [decode] at h
  split at h
  -- `BIND`, format `S`
  case h_3 opc =>
    rcases formatS_error h with rfl | ⟨rfl, word⟩
    · exact .inr (.inl ⟨rfl, by rw [opc]; decide⟩)
    · rw [BitVec.eq_of_toNat_eq (y := 2#8) opc] at word
      exact .inr (.inr ⟨rfl, word⟩)
  -- no opcode of R93
  case h_15 =>
    cases h
    refine .inl ⟨rfl, ?_⟩
    simp only [definedOpcodes, List.map_cons, List.map_nil, List.mem_cons, List.not_mem_nil, not_or,
      not_false_eq_true, and_true]
    and_intros <;> assumption
  -- format `RJ`, in which every word is legal
  case h_5 | h_7 | h_9 | h_11 => cases h
  -- formats `Z` and `J`
  all_goals
    refine .inr (.inl ⟨whenZero_error h, ?_⟩)
    rw [‹(opcField c).toNat = _›]
    decide

/-- Outside `FAULT` an illegal word raises `ERR_ILLEGAL_CMD` (R94), and `ERRINFO` does not saturate. -/
theorem execWord_illegal {c : Word} {e : Illegal} {s : State.Of p} (run : Instr → State.Of p → Result p)
    (h : decode c = .error e) (active : s.phase ≠ .fault) :
    execWord run c s = .next (s.faulted 0x21 e.info c) := by
  rw [execWord, h]
  simp only [if_neg active]
  rw [raiseFault_eq (by cases e <;> decide)]
  rfl

/-- Settles O18: a word that does not decode faults with the info of its kind. -/
theorem illegalWordsFault : Obligations.IllegalWordsFault := by
  intro s c active
  refine ⟨fun reserved => ?_, fun defined noCommand notBindThree => ?_, ?_⟩
  · cases decoded : decode c with
    | ok i => exact absurd (encode_of_decode decoded ▸ opcField_encode_mem i) reserved
    | error e =>
      rcases decode_error_cases decoded with ⟨rfl, -⟩ | ⟨-, defined⟩ | ⟨-, rfl⟩
      · exact execWord_illegal exec decoded active
      · exact absurd defined reserved
      · exact absurd (by decide) reserved
  · cases decoded : decode c with
    | ok i => exact absurd (encode_of_decode decoded) (noCommand i (wellFormed_of_decode decoded))
    | error e =>
      rcases decode_error_cases decoded with ⟨-, reserved⟩ | ⟨rfl, -⟩ | ⟨-, bindThree⟩
      · exact absurd defined reserved
      · exact execWord_illegal exec decoded active
      · exact absurd bindThree notBindThree
  · rintro rfl
    exact execWord_illegal exec decode_bind_three active

/-- Settles O19: these are the words of well-formed commands. -/
theorem writtenOutWordsDecode : Obligations.WrittenOutWordsDecode :=
  ⟨decode_encode (i := .nop) rfl, decode_encode (i := .reset) rfl, decode_encode (i := .bind 2) rfl,
    decode_encode (i := .reshape) rfl, decode_encode (i := .mulv 1 2) rfl, decode_encode (i := .mulb 3) rfl,
    decode_encode (i := .gacs 0xABC 0x123) rfl, decode_encode (i := .zero) rfl, decode_encode (i := .bias) rfl,
    decode_encode (i := .fwdl) rfl, decode_encode (i := .fwds) rfl⟩

end Sys2Proof.Machine

/-! The obligations about the lifecycle commands (spec/40_lifecycle.md): `NOP`, `RESET` and `BIND`.

What a register reads after `RESET` is what it reads after power-on (`readReg_powerOn`). A `BIND` is stated once for any
slot: it faults on the slot's declared length (`execOn_bind_faults`) or binds the slot (`execOn_bind_binds`); the three
slots of R112 are its cases. An illegal word of either opcode is one that no command of that opcode has. -/

namespace Sys2Proof.Machine

variable {α : Type} {p : Params α}

/-! ### `NOP` (R110) -/

theorem execOn_nop (s : State.Of p) : execOn .nop s = .next s := by
  rw [execOn_eq_runCommand (i := .nop) (by decide)]
  by_cases fault : s.phase = .fault
  · exact runCommand_inFault fault
  · exact runCommand_passes fault firstFailing_nil

/-- Settles O21: `NOP` is ignored in `FAULT`, and elsewhere it has no check and no effect. -/
theorem nopChangesNothing : Obligations.NopChangesNothing := execOn_nop

/-! ### `RESET` (R111) -/

theorem cfgReadReg_zero (n : Nat) : Cfg.zero.readReg n = none ∨ Cfg.zero.readReg n = some 0#32 := by
  unfold Cfg.readReg
  split
  case h_22 => exact .inl rfl
  all_goals exact .inr rfl

theorem derivedReadReg_zero (n : Nat) : Derived.zero.readReg n = none ∨ Derived.zero.readReg n = some 0#32 := by
  unfold Derived.readReg
  split
  case h_10 => exact .inl rfl
  all_goals exact .inr rfl

theorem statusWord_powerOn : (State.Of.powerOn p).statusWord = 0#32 := by
  simp [State.Of.statusWord, State.Of.powerOn, Phase.code, LutTag.empty, LutKind.code]

theorem lutTagWord_powerOn : (State.Of.powerOn p).lutTagWord = 0#32 := by
  simp [State.Of.lutTagWord, State.Of.powerOn, LutTag.empty]

/-- R46: after power-on reset every register number reads 0. -/
theorem readReg_powerOn (n : Nat) : (State.Of.powerOn p).readReg n = 0#32 := by
  unfold State.Of.readReg
  split
  case h_1 => exact statusWord_powerOn
  case h_4 => exact lutTagWord_powerOn
  case h_5 =>
    have cfg : (State.Of.powerOn p).cfg = Cfg.zero := rfl
    have derived : (State.Of.powerOn p).derived = Derived.zero := rfl
    rw [cfg, derived]
    rcases cfgReadReg_zero n with unnamed | zero
    · rcases derivedReadReg_zero n with unmapped | zero
      · rw [unnamed, unmapped]; rfl
      · rw [unnamed, zero]; rfl
    · rw [zero]
  all_goals rfl

/-- `RESET` leaves what power-on reset leaves in every register (R111). -/
theorem readReg_resetRegisters (s : State.Of p) (n : Nat) : (resetRegisters s).readReg n = 0#32 :=
  readReg_powerOn (p := p) n

theorem eq_reset_of_opcField {i : Instr} (h : opcField (encode i) = 0x01) : i = .reset := by
  cases i <;> simp [encode] at h ⊢

theorem eq_bind_of_opcField {i : Instr} (h : opcField (encode i) = 0x02) : ∃ slot, i = .bind slot := by
  cases i <;> simp [encode] at h ⊢

/-- `exec` as one function is the commands of the block with the reference parameters. -/
theorem exec_eq_execOn_fun : (exec : Instr → State → Result reference) = execOn :=
  funext fun i => funext fun s => exec_eq_execOn i s

/-- In `FAULT` every word but the one of `RESET` is ignored, legal or not (R213). -/
theorem execWord_inFault {c : Word} {s : State.Of p} (fault : s.phase = .fault) (other : c ≠ encode .reset) :
    execWord execOn c s = .next s := by
  cases decoded : decode c with
  | ok i =>
    have notReset : i ≠ .reset := by
      rintro rfl
      exact other (encode_of_decode decoded).symm
    rw [execWord_decoded decoded, execOn_inFault fault notReset]
  | error e =>
    rw [execWord, decoded]
    exact if_pos fault

/-- Settles O22: the registers after `RESET` are those after power-on, and the opcode has one legal word. -/
theorem resetClearsRegistersKeepsMemories : Obligations.ResetClearsRegistersKeepsMemories := by
  refine fun s => ⟨⟨resetRegisters s, rfl, rfl, fun n _ => readReg_resetRegisters s n⟩, fun c opcode other => ?_⟩
  split
  · next fault =>
    rw [exec_eq_execOn_fun]
    exact execWord_inFault fault other
  · next active =>
    have noCommand : ∀ i, i.wellFormed = true → encode i ≠ c := by
      rintro i - rfl
      exact other (congrArg encode (eq_reset_of_opcField opcode))
    obtain ⟨-, nonzeroField, -⟩ := illegalWordsFault s c active
    refine nonzeroField (opcode ▸ by decide) noCommand ?_
    rintro rfl
    exact absurd opcode (by decide)

/-! ### `BIND` (R112) -/

section Bind

variable {slot : BitVec 2} {sl : Slot} {s : State.Of p}

/-- The one check of `BIND` on a slot. -/
theorem bindChecks_eq (named : slotOf slot = some sl) :
    bindChecks slot s =
      [⟨s.declaredLength sl == 0 || decide (p.capacity sl.space < s.declaredLength sl), .capacity, sl.number + 1⟩] := by
  rw [bindChecks, named]

theorem bindChecks_passes_iff (named : slotOf slot = some sl) :
    firstFailing (bindChecks slot s) = none ↔
      0 < s.declaredLength sl ∧ s.declaredLength sl ≤ p.capacity sl.space := by
  rw [firstFailing_eq_none, bindChecks_eq named, List.forall_mem_singleton, Bool.or_eq_false_iff,
    beq_eq_false_iff_ne, decide_eq_false_iff_not, Nat.pos_iff_ne_zero, not_lt]

/-- The bound flag of the slot is set, and the binding that completes the set ends `UNINIT`. -/
theorem bindEffect_eq (named : slotOf slot = some sl) :
    bindEffect slot s = { s.setBound sl true with
      phase := if s.phase = .uninit ∧ (s.setBound sl true).allBound = true then .configured else s.phase } := by
  rw [bindEffect, named]
  simp only [setBound_phase]
  split
  · rfl
  · rw [← setBound_phase s sl true]

theorem execOn_bind_faults (named : slotOf slot = some sl) (active : s.phase ≠ .fault)
    (bad : s.declaredLength sl = 0 ∨ p.capacity sl.space < s.declaredLength sl) :
    execOn (.bind slot) s = .next (s.faulted 0x15 (sl.number + 1) (encode (.bind slot))) := by
  have fails : firstFailing (bindChecks slot s) = some ⟨true, .capacity, sl.number + 1⟩ := by
    rw [bindChecks_eq named]
    simp [bad]
  have small : sl.number + 1 < 2 ^ 32 := by cases sl <;> decide
  exact (runCommand_fails active fails).trans (congrArg _ (raiseFault_eq small))

theorem execOn_bind_binds (named : slotOf slot = some sl) (active : s.phase ≠ .fault)
    (pos : 0 < s.declaredLength sl) (fits : s.declaredLength sl ≤ p.capacity sl.space) :
    execOn (.bind slot) s = .next { s.setBound sl true with
      phase := if s.phase = .uninit ∧ (s.setBound sl true).allBound = true then .configured else s.phase } :=
  (runCommand_passes active ((bindChecks_passes_iff named).2 ⟨pos, fits⟩)).trans (congrArg _ (bindEffect_eq named))

/-- Slot 3 names no slot (R94). -/
theorem execOn_bind_three (active : s.phase ≠ .fault) :
    execOn (.bind 3) s = .next (s.faulted 0x21 2 0x02000003#32) := by
  have fails : firstFailing (bindChecks 3 s) = some ⟨true, .illegalCmd, 2⟩ := rfl
  exact (runCommand_fails (effect := bindEffect 3) active fails).trans (congrArg _ (raiseFault_eq (by decide)))

end Bind

theorem allBound_iff (s : State.Of p) :
    s.allBound = true ↔ s.boundCb = true ∧ s.boundBias = true ∧ s.boundIdx = true := by
  rw [State.Of.allBound, Bool.and_eq_true, Bool.and_eq_true, and_assoc]

/-- The must-be-zero bits of the words of `BIND` are zero (R91). -/
theorem bind_fields_zero (slot : BitVec 2) :
    rField (encode (.bind slot)) = 0 ∧ slotPadField (encode (.bind slot)) = 0 :=
  ⟨rField_assemble _ _ _, slotPadField_assemble _ _ _⟩

/-- A word of the opcode of `BIND` with another must-be-zero bit set is illegal (R94). -/
theorem execWord_bind_nonzeroField {c : Word} {s : State} (active : s.phase ≠ .fault) (opcode : opcField c = 0x02)
    (nonzero : rField c ≠ 0 ∨ slotPadField c ≠ 0) : execWord exec c s = .next (s.faulted 0x21 1 c) := by
  have noBind : ∀ slot, encode (.bind slot) ≠ c := by
    rintro slot rfl
    obtain ⟨row, pad⟩ := bind_fields_zero slot
    exact nonzero.elim (absurd row) (absurd pad)
  have noCommand : ∀ i, i.wellFormed = true → encode i ≠ c := by
    rintro i - word
    obtain ⟨slot, rfl⟩ := eq_bind_of_opcField (word ▸ opcode)
    exact noBind slot word
  obtain ⟨-, nonzeroField, -⟩ := illegalWordsFault s c active
  exact nonzeroField (opcode ▸ by decide) noCommand (noBind 3).symm

/-- Settles O23: each operand names its slot, and the slot's flag with the two others' is the whole set. -/
theorem bindSetsSlotOrFaults : Obligations.BindSetsSlotOrFaults := by
  intro s active
  simp only [exec_eq_execOn]
  refine ⟨execOn_bind_three active, fun c => execWord_bind_nonzeroField active,
    execOn_bind_faults (sl := .codebook) rfl active, execOn_bind_faults (sl := .bias) rfl active,
    execOn_bind_faults (sl := .packedIndex) rfl active, fun pos fits => ?_, fun pos fits => ?_, fun pos fits => ?_⟩
  · rw [execOn_bind_binds (sl := .codebook) rfl active pos fits]
    simp [allBound_iff, State.Of.setBound]
  · rw [execOn_bind_binds (sl := .bias) rfl active pos fits]
    simp [allBound_iff, State.Of.setBound]
  · rw [execOn_bind_binds (sl := .packedIndex) rfl active pos fits]
    simp [allBound_iff, State.Of.setBound]

end Sys2Proof.Machine

/-! The obligations about the decoder and `RESHAPE` (spec/41_decoder_reshape.md).

A code that decodes is cut out of one word or of two (`decodeCode_ok_cases`), and bit by bit it is the stream of R72
(`testBit_of_decodeCode`). The packer writes that stream (`streamBit_packCodes`), so what it packs decodes back.

`RESHAPE` is said once per phase (`execOn_reshape_*`). After one that passes, the block keeps the promise of `READY`, and
the registers are read off that promise. The table of R136 is walked with `RowsLeft`, the rows that still decide: a row
that holds raises its fault, and one that does not leaves the rows after it. -/

namespace Sys2Proof.Machine

variable {α : Type} {p : Params α}

/-! ### Which words a code needs (R130, R132, R133) -/

/-- A code whose last bit lies in the buffer decodes. -/
theorem decodeCode_total {words : List Nat} {b W i : Nat} (hb : 1 ≤ b)
    (inside : i * b + b ≤ words.length * W) : ∃ x, decodeCode words b W i = .ok x := by
  cases decoded : decodeCode words b W i with
  | ok x => exact ⟨x, rfl⟩
  | error q =>
    exfalso
    have split := Nat.div_add_mod' (i * b) W
    obtain ⟨missing, rfl | ⟨-, straddles, rfl⟩⟩ := decodeCode_error.1 decoded
    · have := Nat.mul_le_mul_right W missing
      omega
    · have := Nat.mul_le_mul_right W missing
      rw [Nat.succ_mul] at this
      omega

theorem lt_ceilDiv_iff {n W q : Nat} (hW : 0 < W) : q < ceilDiv n W ↔ q * W < n := by
  rw [ceilDiv, ← Nat.succ_le_iff, Nat.le_div_iff_mul_le hW, Nat.succ_mul]
  omega

/-- R133 -/
theorem decodeCodes_total {words : List Nat} {n b W : Nat} (hb : 1 ≤ b) (hbW : b ≤ W)
    (sized : ceilDiv (n * b) W ≤ words.length) : ∃ codes, decodeCodes words n b W = .ok codes := by
  have bits : n * b ≤ words.length * W := Nat.not_lt.1 fun past =>
    sized.not_gt ((lt_ceilDiv_iff (by omega)).2 past)
  refine decodeFrom_total fun k hk => decodeCode_total hb ?_
  rw [Nat.zero_add, ← Nat.succ_mul]
  exact (Nat.mul_le_mul_right b hk).trans bits

/-- Settles O27: `decodeFrom` stops at the first code that fails, and `decodeCode_error` says which do. -/
theorem failedDecodeNamesMissingWord : Obligations.FailedDecodeNamesMissingWord := by
  intro words n b W lacks
  have lacks_iff (i q : Nat) : lacks i q ↔ decodeCode words b W i = .error q := decodeCode_error.symm
  have decodes_iff (i : Nat) : (∃ x, decodeCode words b W i = .ok x) ↔ ∀ q, ¬ lacks i q := by
    cases decoded : decodeCode words b W i <;> simp [lacks_iff, decoded]
  have fails_iff (q : Nat) : decodeCodes words n b W = .error q ↔
      ∃ i, i < n ∧ lacks i q ∧ ∀ i' q', i' < i → ¬ lacks i' q' := by
    simp only [decodeCodes, decodeFrom_error, Nat.zero_add, decodes_iff, ← lacks_iff]
    exact exists_congr fun i => and_congr_right' (and_congr_right' (forall_congr' fun i' => forall_comm))
  refine ⟨fails_iff, fun i q hi fails => ?_⟩
  classical
  have some_fails : ∃ i q, lacks i q := ⟨i, q, fails⟩
  obtain ⟨q', first⟩ := Nat.find_spec some_fails
  have least : Nat.find some_fails ≤ i := Nat.find_min' some_fails ⟨q, fails⟩
  exact ⟨_, q', least, first, (fails_iff q').2
    ⟨_, least.trans_lt hi, first, fun i' q' hi' fails' => Nat.find_min some_fails hi' ⟨q', fails'⟩⟩⟩

/-! ### Which bits a code is (R72, R131) -/

/-- R130: a code lies in one word, or its bits run on into the next. -/
theorem decodeCode_ok_cases {words : List Nat} {b W i x : Nat} (h : decodeCode words b W i = .ok x) :
    (∃ word, words[i * b / W]? = some word ∧ i * b % W + b ≤ W ∧
      x = (word >>> (W - b - i * b % W)) &&& (2 ^ b - 1)) ∨
    (∃ word nextWord, words[i * b / W]? = some word ∧ words[i * b / W + 1]? = some nextWord ∧ W < i * b % W + b ∧
      x = ((word <<< (i * b % W + b - W)) ||| (nextWord >>> (W - (i * b % W + b - W)))) &&& (2 ^ b - 1)) := by
  have present (q : Nat) : ¬ decodeCode words b W i = .error q := by rw [h]; nofun
  simp only [decodeCode_error, not_and_or, not_or] at present
  have first : i * b / W < words.length := by
    have := present (i * b / W)
    omega
  have word := List.getElem?_eq_getElem first
  by_cases straddles : W < i * b % W + b
  · have next : i * b / W + 1 < words.length := by
      have := present (i * b / W + 1)
      omega
    have nextWord := List.getElem?_eq_getElem next
    rw [decodeCode_two word nextWord straddles] at h
    cases h
    exact .inr ⟨_, _, word, nextWord, straddles, rfl⟩
  · rw [decodeCode_one word (Nat.le_of_not_lt straddles)] at h
    cases h
    exact .inl ⟨_, word, Nat.le_of_not_lt straddles, rfl⟩

theorem streamBit_of_word {words : List Nat} {W q t word : Nat} (hw : words[q]? = some word) (ht : t < W) :
    streamBit words W (q * W + t) = word.testBit (W - 1 - t) := by
  rw [streamBit, Nat.mul_comm, Nat.mul_add_div (by omega), Nat.mul_add_mod, Nat.div_eq_of_lt ht, Nat.mod_eq_of_lt ht,
    Nat.add_zero, List.getD_eq_getElem?_getD, hw, Option.getD_some]

/-- R131 for one code. -/
theorem testBit_of_decodeCode {words : List Nat} {b W i x t : Nat} (bounded : ∀ w ∈ words, w < 2 ^ W)
    (h : decodeCode words b W i = .ok x) (hbW : b ≤ W) (ht : t < b) :
    x.testBit (b - 1 - t) = streamBit words W (i * b + t) := by
  have cut (y k : Nat) (hk : k < b) : (y &&& (2 ^ b - 1)).testBit k = y.testBit k := by
    simp [hk]
  have place : i * b + t = i * b / W * W + (i * b % W + t) := by
    rw [← Nat.add_assoc, Nat.div_add_mod']
  have offset : i * b % W < W := Nat.mod_lt _ (by omega)
  rcases decodeCode_ok_cases h with ⟨word, hword, inside, rfl⟩ | ⟨word, nextWord, hword, hnext, straddles, rfl⟩
  · rw [place, streamBit_of_word hword (by omega), cut _ _ (by omega), Nat.testBit_shiftRight]
    congr 1
    omega
  · rw [cut _ _ (by omega), Nat.testBit_or, Nat.testBit_shiftLeft, Nat.testBit_shiftRight]
    by_cases first : i * b % W + t < W
    · have past : nextWord < 2 ^ (W - (i * b % W + b - W) + (b - 1 - t)) :=
        (bounded _ (List.mem_of_getElem? hnext)).trans_le (Nat.pow_le_pow_right (by omega) (by omega))
      rw [place, streamBit_of_word hword first, Nat.testBit_lt_two_pow past, Bool.or_false,
        decide_eq_true (by omega), Bool.true_and]
      congr 1
      omega
    · have placeNext : i * b + t = (i * b / W + 1) * W + (i * b % W + t - W) := by
        rw [Nat.succ_mul]
        omega
      rw [placeNext, streamBit_of_word hnext (by omega), decide_eq_false (by omega), Bool.false_and, Bool.false_or]
      congr 1
      omega

/-- Settles O28: each code of a decode is `decodeCode` at its place. -/
theorem decodedCodeIsItsBits : Obligations.DecodedCodeIsItsBits := by
  intro words codes n b W _ hbW bounded decoded
  obtain ⟨length, each⟩ := decodeFrom_ok decoded
  refine ⟨length, fun i x hi => ?_⟩
  have code : decodeCode words b W i = .ok x := by simpa using each i x hi
  exact ⟨decodeCode_lt code, fun t => testBit_of_decodeCode bounded code hbW⟩

/-! ### Packing (R135) -/

/-- Bits pushed in one after the other from the right: the first is the most significant. -/
theorem testBit_foldl_bits (f : Nat → Bool) {n t : Nat} (ht : t < n) :
    ((List.range n).foldl (fun acc t => 2 * acc + (f t).toNat) 0).testBit (n - 1 - t) = f t := by
  induction n with
  | zero => cases ht
  | succ n ih =>
    rw [List.range_succ, List.foldl_concat]
    rcases Nat.lt_succ_iff_lt_or_eq.1 ht with earlier | rfl
    · rw [show n + 1 - 1 - t = n - 1 - t + 1 by omega, Nat.testBit_succ,
        show ∀ a, (2 * a + (f n).toNat) / 2 = a by have := Bool.toNat_lt (f n); omega]
      exact ih earlier
    · rw [show t + 1 - 1 - t = 0 by omega, Nat.testBit_zero]
      cases f t <;> simp

theorem getElem?_packCodes {codes : List Nat} {b W q : Nat} (hq : q < ceilDiv (codes.length * b) W) :
    (packCodes codes b W)[q]? = some (packedWord codes b W q) := by
  simp [packCodes, hq]

/-- The packer writes the bit string of R72. -/
theorem streamBit_packCodes {codes : List Nat} {b W t : Nat} (hW : 0 < W) (ht : t < codes.length * b) :
    streamBit (packCodes codes b W) W t = packedBit codes b t := by
  have word : t / W < ceilDiv (codes.length * b) W := (lt_ceilDiv_iff hW).2 ((Nat.div_mul_le_self t W).trans_lt ht)
  have bit := streamBit_of_word (getElem?_packCodes word) (Nat.mod_lt t hW)
  rwa [Nat.div_add_mod', packedWord, testBit_foldl_bits _ (Nat.mod_lt t hW), Nat.div_add_mod'] at bit

/-- The bit string that the codes are packed into is theirs, read as `b`-bit words. -/
theorem packedBit_eq_streamBit (codes : List Nat) (b t : Nat) : packedBit codes b t = streamBit codes b t := rfl

/-- Settles O29: code `i` of the decode and code `i` of those packed have the same bits of the stream. -/
theorem packedCodesDecodeBack : Obligations.PackedCodesDecodeBack := by
  intro codes b W hb hbW small
  have sized : ceilDiv (codes.length * b) W ≤ (packCodes codes b W).length := by simp [packCodes]
  have bounded : ∀ w ∈ packCodes codes b W, w < 2 ^ W := by simp [packCodes, packedWord_lt]
  obtain ⟨out, decoded⟩ := decodeCodes_total hb hbW sized
  obtain ⟨length, bits⟩ := decodedCodeIsItsBits _ out _ b W hb hbW bounded decoded
  have same : out = codes := List.ext_getElem length fun i hout hi => by
    obtain ⟨below, eachBit⟩ := bits i _ (List.getElem?_eq_getElem hout)
    have belowPacked := small _ (List.getElem_mem hi)
    refine Nat.eq_of_testBit_eq fun k => ?_
    by_cases hk : k < b
    · have written : i * b + (b - 1 - k) < codes.length * b := rowColumn_lt hi (by omega)
      have bit := eachBit (b - 1 - k) (by omega)
      rwa [streamBit_packCodes (by omega) written, packedBit_eq_streamBit,
        streamBit_of_word (List.getElem?_eq_getElem hi) (by omega), show b - 1 - (b - 1 - k) = k by omega] at bit
    · have past := Nat.pow_le_pow_right (show 0 < 2 by decide) (Nat.le_of_not_lt hk)
      rw [Nat.testBit_lt_two_pow (below.trans_le past), Nat.testBit_lt_two_pow (belowPacked.trans_le past)]
  rw [decoded, same]

/-! ### `RESHAPE` by phase (R137) -/

section Reshape

variable {s : State.Of p}

theorem execOn_reshape (s : State.Of p) :
    execOn .reshape s = runCommand 0x03000000#32 (reshapeCommandChecks s) reshapeEffect s := rfl

/-- R133, R136: the buffer of a configuration that passes is long enough. -/
theorem decoded_of_passed (h : Passed p s.cfg) : ∃ codes, s.decoded = .ok codes :=
  decodeCodes_total h.bits_pos h.bits_le (by simp [State.Of.packedWords, h.idxLen, Cfg.geometry])

theorem reshapeCommandChecks_ready (ready : s.phase = .ready) : firstFailing (reshapeCommandChecks s) = none := by
  simp [reshapeCommandChecks, phaseCheck, ready]

theorem reshapeCommandChecks_configured (configured : s.phase = .configured) :
    firstFailing (reshapeCommandChecks s) = firstFailing (reshapeChecks p s.cfg) := by
  cases rows : firstFailing (reshapeChecks p s.cfg) with
  | some k => simp [reshapeCommandChecks, phaseCheck, configured, firstFailing_append, rows]
  | none =>
    obtain ⟨codes, decoded⟩ := decoded_of_passed (passed_of_checks rows)
    simp [reshapeCommandChecks, phaseCheck, configured, firstFailing_append, rows, decodeCheck, decoded]

theorem reshapeCommandChecks_other (unready : s.phase ≠ .ready) (unconfigured : s.phase ≠ .configured) :
    firstFailing (reshapeCommandChecks s) = some ⟨true, .seq, 0⟩ := by
  simp [reshapeCommandChecks, phaseCheck, unready, unconfigured]

theorem execOn_reshape_fails (configured : s.phase = .configured) {k : Check}
    (fails : firstFailing (reshapeChecks p s.cfg) = some k) :
    execOn .reshape s = .next (s.faulted k.err.code (min k.info (2 ^ 32 - 1)) 0x03000000#32) :=
  runCommand_fails (by simp [configured]) (reshapeCommandChecks_configured configured ▸ fails)

theorem execOn_reshape_passes (configured : s.phase = .configured)
    (passes : firstFailing (reshapeChecks p s.cfg) = none) : execOn .reshape s = .next (rebuild s) := by
  rw [execOn_reshape, runCommand_passes (by simp [configured]) (reshapeCommandChecks_configured configured ▸ passes),
    reshapeEffect, if_neg (by simp [configured])]

theorem execOn_reshape_ready (ready : s.phase = .ready) : execOn .reshape s = .next s := by
  rw [execOn_reshape, runCommand_passes (by simp [ready]) (reshapeCommandChecks_ready ready), reshapeEffect,
    if_pos ready]

theorem execOn_reshape_uninit (uninit : s.phase = .uninit) :
    execOn .reshape s = .next (s.faulted 0x20 0 0x03000000#32) :=
  (runCommand_fails (by simp [uninit]) (reshapeCommandChecks_other (by simp [uninit]) (by simp [uninit]))).trans
    (congrArg _ (raiseFault_eq (by decide)))

/-- No row of R136 raises `ERR_DECODE_BOUNDS`. -/
theorem err_ne_decodeBounds_of_mem {c : Cfg} {k : Check} (h : k ∈ reshapeChecks p c) : k.err ≠ .decodeBounds := by
  have width : ∀ k ∈ widthChecks p c, k.err ≠ .decodeBounds := by simp [widthChecks]
  have window : ∀ k ∈ (if c.spatial then windowChecks c else []), k.err ≠ .decodeBounds := by
    split <;> simp [windowChecks]
  have length : ∀ k ∈ lengthChecks c, k.err ≠ .decodeBounds := by simp [lengthChecks]
  have capacity : ∀ k ∈ capacityChecks p c, k.err ≠ .decodeBounds := by simp [capacityChecks]
  simp only [reshapeChecks, List.mem_append] at h
  obtain ((h | h) | h) | h := h
  · exact width k h
  · exact window k h
  · exact length k h
  · exact capacity k h

/-- The fault of a `RESHAPE` is of its phase or of a row of R136. -/
theorem err_ne_decodeBounds_of_fails {k : Check} (fails : firstFailing (reshapeCommandChecks s) = some k) :
    k.err ≠ .decodeBounds := by
  by_cases ready : s.phase = .ready
  · rw [reshapeCommandChecks_ready ready] at fails
    cases fails
  · by_cases configured : s.phase = .configured
    · rw [reshapeCommandChecks_configured configured] at fails
      exact err_ne_decodeBounds_of_mem (firstFailing_some fails).1
    · rw [reshapeCommandChecks_other ready configured] at fails
      cases fails
      nofun

end Reshape

theorem eq_decodeBounds_of_code {e : ErrCode} (code : e.code = 0x05) : e = .decodeBounds := by
  cases e <;> simp [ErrCode.code] at code ⊢

/-- Settles O26: the last bit of each code lies in the buffer, and R136 checks that the buffer is of that size. -/
theorem sizedBufferDecodes : Obligations.SizedBufferDecodes := by
  refine ⟨fun words n b W hb hbW sized => ?_, fun s info c active same => ?_⟩
  · obtain ⟨codes, decoded⟩ := decodeCodes_total hb hbW sized
    exact ⟨codes, decoded, (decodeFrom_ok decoded).1⟩
  · rw [exec_eq_execOn, execOn_reshape] at same
    rcases runCommand_cases 0x03000000#32 (reshapeCommandChecks s) reshapeEffect s with
      ⟨fault, -⟩ | ⟨-, k, fails, raised⟩ | ⟨-, -, done⟩
    · exact active fault
    · have err := congrArg State.Of.err (Host.Outcome.next.inj (raised.symm.trans same))
      exact err_ne_decodeBounds_of_fails fails (eq_decodeBounds_of_code err)
    · have phase := congrArg State.Of.phase (Host.Outcome.next.inj (done.symm.trans same))
      rw [reshapeEffect] at phase
      split at phase
      · exact active phase
      · cases phase

/-! ### The block after a `RESHAPE` (R41, R137) -/

/-- R138: the output size as the spec's quotient of integers. -/
theorem outSize_eq {size pad dil kernel : Nat} (fits : 0 ≤ windowSlack size pad dil kernel) (stride : Nat) :
    (outSize size pad dil kernel stride : Int) = windowSlack size pad dil kernel / stride + 1 := by
  rw [outSize, Int.natCast_add, Int.natCast_ediv, Int.toNat_of_nonneg fits, Int.natCast_one]

theorem outHeight_eq {c : Cfg} (h : Passed p c) (spatial : c.spatial = true) :
    (c.outHeight : Int) = c.slackH / c.strideH.toNat + 1 := by
  obtain ⟨-, -, -, -, -, -, -, -, slackH, -⟩ := h.window spatial
  rw [Cfg.outHeight, if_pos spatial, outSize_eq slackH, Cfg.slackH]

theorem outWidth_eq {c : Cfg} (h : Passed p c) (spatial : c.spatial = true) :
    (c.outWidth : Int) = c.slackW / c.strideW.toNat + 1 := by
  obtain ⟨-, -, -, -, -, -, -, -, -, slackW⟩ := h.window spatial
  rw [Cfg.outWidth, if_pos spatial, outSize_eq slackW, Cfg.slackW]

/-- R41 in linear mode. -/
theorem State.Of.Ready.derived_linear {t : State.Of p} (h : t.Ready) (hp : p.Valid) (linear : t.cfg.spatial = false) :
    t.derived.count.toNat = t.cfg.numOut.toNat * t.derived.numSlices.toNat ∧
    t.derived.outH = 0 ∧ t.derived.outW = 0 ∧
    t.derived.lutExtent.toNat = t.cfg.batch.toNat * t.cfg.k.toNat := by
  obtain ⟨-, numSlices, count, outH, outW, -, -, -, lutExtent⟩ := registers_toNat hp h.passed
  rw [h.derived]
  refine ⟨?_, BitVec.eq_of_toNat_eq ?_, BitVec.eq_of_toNat_eq ?_, ?_⟩
  · rw [count, numSlices]
    simp [Cfg.codeCount, linear]
  · rw [outH]
    simp [Cfg.outHeight, linear]
  · rw [outW]
    simp [Cfg.outWidth, linear]
  · rw [lutExtent]
    simp [Cfg.geometry, linear]

/-- R41 in spatial mode. -/
theorem State.Of.Ready.derived_spatial {t : State.Of p} (h : t.Ready) (hp : p.Valid) (spatial : t.cfg.spatial = true) :
    t.derived.count.toNat =
      t.derived.numSlices.toNat * t.cfg.kernelH.toNat * t.cfg.kernelW.toNat * t.cfg.numOut.toNat ∧
    (t.derived.outH.toNat : Int) = t.cfg.slackH / t.cfg.strideH.toNat + 1 ∧
    (t.derived.outW.toNat : Int) = t.cfg.slackW / t.cfg.strideW.toNat + 1 ∧
    t.derived.lutExtent.toNat = t.cfg.k.toNat * t.cfg.inH.toNat * t.cfg.inW.toNat := by
  obtain ⟨-, numSlices, count, outH, outW, -, -, -, lutExtent⟩ := registers_toNat hp h.passed
  rw [h.derived]
  refine ⟨?_, ?_, ?_, ?_⟩
  · rw [count, numSlices]
    simp [Cfg.codeCount, spatial]
  · rw [outH, outHeight_eq h.passed spatial]
  · rw [outW, outWidth_eq h.passed spatial]
  · rw [lutExtent]
    simp [Cfg.geometry, spatial]

theorem State.Of.Ready.reqWords {t : State.Of p} (h : t.Ready) (hp : p.Valid) : t.derived.reqWords = t.cfg.idxLen := by
  obtain ⟨-, -, -, -, -, -, -, reqWords, -⟩ := registers_toNat hp h.passed
  rw [h.derived]
  exact BitVec.eq_of_toNat_eq (reqWords.trans h.passed.idxLen.symm)

/-- Settles O25: by phase; after a `RESHAPE` that passes, the block keeps the promise of `READY`, whose registers and
indices are known. -/
theorem reshapeMakesReady : Obligations.ReshapeMakesReady := by
  intro s
  simp only [exec_eq_execOn]
  refine ⟨execOn_reshape_uninit, execOn_reshape_ready, fun k configured => execOn_reshape_fails configured,
    fun configured passes => ?_⟩
  have hp := reference_valid
  obtain ⟨_, decoded⟩ := decoded_of_passed (passed_of_checks passes)
  have ready := ready_rebuild passes decoded
  obtain ⟨codes, decoded, entries⟩ := ready.codes hp
  have length : codes.length = (rebuild s).derived.count.toNat := (decodeFrom_ok decoded).1.trans (ready.count hp).symm
  refine ⟨rebuild s, codes, execOn_reshape_passes configured passes, rfl, ?_, length, fun i x hi => ?_, ?_, ?_,
    ready.reqWords hp, fun linear => ?_, fun spatial => ?_⟩
  · rw [ready.count hp, ready.bits hp]
    exact decoded
  · have below := (List.getElem?_eq_some_iff.1 hi).1
    obtain ⟨entry, -⟩ := entries i (length ▸ below)
    exact Option.some.inj (entry.symm.trans hi)
  · rw [ready.bits hp]
    exact ready.passed.k
  · rw [ready.numSlices hp]
    exact ready.passed.width.symm
  · obtain ⟨count, outH, outW, lutExtent⟩ := ready.derived_linear hp linear
    exact ⟨count, outH, outW, ready.inExtent_linear hp linear, ready.outExtent_linear hp linear, lutExtent⟩
  · obtain ⟨count, outH, outW, lutExtent⟩ := ready.derived_spatial hp spatial
    refine ⟨count, outH, outW, ?_, ready.outExtent_spatial hp spatial, lutExtent⟩
    rw [ready.inExtent_spatial hp spatial, Cfg.positions, ← Nat.mul_assoc]
    rfl

/-! ### The table of R136, row by row -/

/-- The rows of R136 from `rest` on decide what `RESHAPE` does: the block is `CONFIGURED` and no earlier row holds. -/
structure RowsLeft (s : State) (rest : List Check) : Prop where
  configured : s.phase = .configured
  decides : firstFailing (reshapeChecks reference s.cfg) = firstFailing rest

/-- The fault of a row of R136. -/
abbrev Raises (s : State) (e : ErrCode) (info : Nat) : Prop :=
  exec .reshape s = .next (s.faulted e.code (min info (2 ^ 32 - 1)) 0x03000000#32)

namespace RowsLeft

variable {s : State} {b : Bool} {e : ErrCode} {info : Nat} {rows rest : List Check}

theorem start (configured : s.phase = .configured) : RowsLeft s (widthChecks reference s.cfg ++
    ((if s.cfg.spatial then windowChecks s.cfg else []) ++ (lengthChecks s.cfg ++ capacityChecks reference s.cfg))) :=
  ⟨configured, by simp only [reshapeChecks, List.append_assoc]⟩

theorem holds (left : RowsLeft s (⟨b, e, info⟩ :: rest)) (fails : b = true) : Raises s e info := by
  subst fails
  exact (exec_eq_execOn .reshape s).trans (execOn_reshape_fails left.configured left.decides)

theorem next (left : RowsLeft s (⟨b, e, info⟩ :: rest)) (passes : b = false) : RowsLeft s rest := by
  subst passes
  exact ⟨left.configured, left.decides⟩

theorem skip (left : RowsLeft s (rows ++ rest)) (pass : firstFailing rows = none) : RowsLeft s rest :=
  ⟨left.configured, by rw [left.decides, firstFailing_append, pass, Option.none_or]⟩

/-- A row that a register is 0. -/
theorem zero {x : Word} (left : RowsLeft s (⟨x == 0, e, info⟩ :: rest)) (zero : x = 0) : Raises s e info :=
  left.holds (beq_iff_eq.2 zero)

theorem nonzero {x : Word} (left : RowsLeft s (⟨x == 0, e, info⟩ :: rest)) (nonzero : x ≠ 0) : RowsLeft s rest :=
  left.next (beq_eq_false_iff_ne.2 nonzero)

/-- The row that `K` is no power of two. -/
theorem noPower {x : Nat} (left : RowsLeft s (⟨!isPow2 x, e, info⟩ :: rest)) (noPower : ¬ ∃ e, x = 2 ^ e) :
    Raises s e info :=
  left.holds (by rwa [Bool.not_eq_true', ← Bool.not_eq_true, isPow2_iff])

theorem power {x : Nat} (left : RowsLeft s (⟨!isPow2 x, e, info⟩ :: rest)) (power : ∃ e, x = 2 ^ e) : RowsLeft s rest :=
  left.next (by rwa [Bool.not_eq_false', isPow2_iff])

/-- The row that `K` is 1. -/
theorem one {x : Word} (left : RowsLeft s (⟨x == 1, e, info⟩ :: rest)) (one : x.toNat = 1) : Raises s e info :=
  left.holds (beq_iff_eq.2 (BitVec.eq_of_toNat_eq one))

theorem notOne {x : Word} (left : RowsLeft s (⟨x == 1, e, info⟩ :: rest)) (other : x.toNat ≠ 1) : RowsLeft s rest :=
  left.next (beq_eq_false_iff_ne.2 fun one => other (congrArg BitVec.toNat one))

/-- A row that two numbers differ. -/
theorem differ {β : Type} [BEq β] [LawfulBEq β] {x y : β} (left : RowsLeft s (⟨x != y, e, info⟩ :: rest))
    (differ : x ≠ y) : Raises s e info :=
  left.holds (bne_iff_ne.2 differ)

theorem agree {β : Type} [BEq β] [LawfulBEq β] {x y : β} (left : RowsLeft s (⟨x != y, e, info⟩ :: rest))
    (agree : x = y) : RowsLeft s rest :=
  left.next (bne_eq_false_iff_eq.2 agree)

/-- A row whose condition is decided as it stands. -/
theorem past {q : Prop} [Decidable q] (left : RowsLeft s (⟨decide q, e, info⟩ :: rest)) (past : q) : Raises s e info :=
  left.holds (decide_eq_true past)

theorem within {q : Prop} [Decidable q] (left : RowsLeft s (⟨decide q, e, info⟩ :: rest)) (within : ¬ q) :
    RowsLeft s rest :=
  left.next (decide_eq_false within)

/-- A row that a number is above its bound, and the table after it. -/
theorem bound {x limit : Nat} {tail : Prop} (left : RowsLeft s (⟨decide (limit < x), e, info⟩ :: rest))
    (after : RowsLeft s rest → tail) : (limit < x → Raises s e info) ∧ (x ≤ limit → tail) :=
  ⟨left.past, fun below => after (left.within below.not_gt)⟩

/-- The end of the table. -/
theorem done (left : RowsLeft s []) : firstFailing (reshapeChecks reference s.cfg) = none ∧
    ∃ t, exec .reshape s = .next t ∧ t.phase = .ready :=
  ⟨left.decides, rebuild s,
    (exec_eq_execOn .reshape s).trans (execOn_reshape_passes left.configured left.decides), rfl⟩

end RowsLeft

theorem wbits_fails_iff (w : Word) : (!(w == 8 || w == 16 || w == 32)) = true ↔
    w.toNat ≠ 8 ∧ w.toNat ≠ 16 ∧ w.toNat ≠ 32 := by
  simp [← BitVec.toNat_inj, and_assoc]

theorem wbits_passes_iff (w : Word) : (!(w == 8 || w == 16 || w == 32)) = false ↔
    w.toNat = 8 ∨ w.toNat = 16 ∨ w.toNat = 32 := by
  rw [← Bool.not_eq_true, wbits_fails_iff]
  omega

theorem windowChecks_pass {c : Cfg} (window : c.spatial = true → c.inH ≠ 0 ∧ c.inW ≠ 0 ∧ c.kernelH ≠ 0 ∧
    c.kernelW ≠ 0 ∧ c.strideH ≠ 0 ∧ c.strideW ≠ 0 ∧ c.dilH ≠ 0 ∧ c.dilW ≠ 0 ∧ 0 ≤ c.slackH ∧ 0 ≤ c.slackW) :
    firstFailing (if c.spatial then windowChecks c else []) = none := by
  split
  · next spatial => exact firstFailing_eq_none.2 (by simpa [windowChecks] using window spatial)
  · rfl

theorem outExtent_eq (c : Cfg) : c.geometry.outExtent =
    if c.spatial then c.batch.toNat * c.numOut.toNat *
      outSize c.inH.toNat c.padH.toNat c.dilH.toNat c.kernelH.toNat c.strideH.toNat *
      outSize c.inW.toNat c.padW.toNat c.dilW.toNat c.kernelW.toNat c.strideW.toNat
    else c.batch.toNat * c.numOut.toNat := by
  unfold Cfg.geometry Cfg.outHeight Cfg.outWidth
  split <;> rfl

/-- Settles O24, one row of the table after the other: `left` holds the rows from there on. -/
theorem reshapeFaultsInOrder : Obligations.ReshapeFaultsInOrder := by
  intro s configured c W K raises slices b slackH slackW outH outW count req inExtent outExtent lutExtent
  have left := RowsLeft.start configured
  refine ⟨fun wbits => left.holds ((wbits_fails_iff _).2 wbits), fun wbits => ?_⟩
  replace left := left.next ((wbits_passes_iff _).2 wbits)
  refine ⟨left.noPower, fun one => (left.power ⟨0, one⟩).one one, fun pow one => ?_⟩
  replace left := (left.power pow).notOne one
  refine ⟨left.past, fun bits => (left.within bits.not_gt).past, fun bits maxBits => ?_⟩
  replace left := (left.within bits.not_gt).within maxBits.not_gt
  refine ⟨left.zero, fun m => (left.nonzero m).zero, fun m numOut => ((left.nonzero m).nonzero numOut).zero,
    fun m numOut batch => (((left.nonzero m).nonzero numOut).nonzero batch).zero, fun m numOut batch inWidth => ?_⟩
  replace left := (((left.nonzero m).nonzero numOut).nonzero batch).nonzero inWidth
  refine ⟨left.differ, fun width => (left.agree width).differ, fun width slice => ?_⟩
  have left : RowsLeft s ((if c.spatial then windowChecks c else []) ++
      (lengthChecks c ++ capacityChecks reference c)) := (left.agree width).agree slice
  refine ⟨fun spatial => ?_, fun window => ?_⟩
  · have spatial : c.spatial = true := spatial
    rw [if_pos spatial] at left
    refine ⟨left.zero, fun inH => (left.nonzero inH).zero, fun inH inW => ((left.nonzero inH).nonzero inW).zero,
      fun inH inW kernelH => (((left.nonzero inH).nonzero inW).nonzero kernelH).zero,
      fun inH inW kernelH kernelW => ?_⟩
    replace left := (((left.nonzero inH).nonzero inW).nonzero kernelH).nonzero kernelW
    refine ⟨left.zero, fun strideH => (left.nonzero strideH).zero,
      fun strideH strideW => ((left.nonzero strideH).nonzero strideW).zero,
      fun strideH strideW dilH => (((left.nonzero strideH).nonzero strideW).nonzero dilH).zero,
      fun strideH strideW dilH dilW => ?_⟩
    replace left := (((left.nonzero strideH).nonzero strideW).nonzero dilH).nonzero dilW
    exact ⟨left.past, fun slackH => (left.within slackH.not_gt).past⟩
  replace left := left.skip (windowChecks_pass window)
  refine ⟨left.differ, fun cbLen => (left.agree cbLen).differ, fun cbLen biasLen => ?_⟩
  replace left := (left.agree cbLen).agree biasLen
  refine ⟨left.past, fun long => (left.within long.not_gt).past long, fun idxLen => ?_⟩
  replace left := (left.within idxLen.not_lt).within idxLen.not_gt
  refine left.bound fun left => left.bound fun left => left.bound fun left => left.bound fun left => ?_
  rw [outExtent_eq] at left
  exact left.bound fun left => left.bound fun left => left.bound fun left => left.bound fun left =>
    left.bound fun left => left.done

end Sys2Proof.Machine

/-! The obligations about the multiplier (spec/42_multiplier.md).

What a command with a slice operand does before its effect (R98 steps 4 to 6) is said once, `slice_command`: the fault
of its first failing check, or the checks that are left. A table is known entry by entry (`elem_mulvEffect`,
`elem_mulbEffect`, `elem_mulsEffect`), and R155 compares two of them. `FWDL` adds such entries slice by slice over any
arithmetic (`elem_fwdlEffect`); with exact arithmetic each of its folds is a sum.

In binary32 each kind of operand has one lemma for sums and one for products. A sum is -0.0 only of two -0.0
(`radd_eq_negativeZero_iff`): a NaN or an infinity keeps the exponent 255, and a finite sum that is not 0 does not round
to 0. -/

namespace Sys2Proof.Machine

variable {α : Type} {p : Params α}

/-! ### The checks of a command, one after the other (R98) -/

/-- The checks of the command `i` from `rest` on decide what it does: the block is not in `FAULT` and no earlier check
fails. -/
structure ChecksLeft (i : Instr) (s : State.Of p) (rest : List Check) : Prop where
  active : s.phase ≠ .fault
  decides : firstFailing (commandChecks i s) = firstFailing rest

section Checks

variable {i : Instr} {s : State.Of p} {c : Check} {rest : List Check}

theorem ChecksLeft.start (active : s.phase ≠ .fault) (checks : commandChecks i s = rest) : ChecksLeft i s rest :=
  ⟨active, congrArg firstFailing checks⟩

theorem ChecksLeft.next (left : ChecksLeft i s (c :: rest)) (passes : c.fails = false) : ChecksLeft i s rest :=
  ⟨left.active, left.decides.trans (by rw [firstFailing_cons, passes]; rfl)⟩

theorem ChecksLeft.raises (left : ChecksLeft i s (c :: rest)) (fails : c.fails = true) (small : c.info < 2 ^ 32) :
    execOn i s = .next (s.faulted c.err.code c.info (encode i)) := by
  have decides : firstFailing (commandChecks i s) = some c := left.decides.trans (if_pos fails)
  have notReset : i ≠ .reset := by
    rintro rfl
    cases decides
  rw [execOn_eq_runCommand notReset, runCommand_fails left.active decides, raiseFault_eq small]

theorem ChecksLeft.effect (left : ChecksLeft i s []) (notReset : i ≠ .reset) :
    execOn i s = .next (commandEffect i s) := by
  rw [execOn_eq_runCommand notReset, runCommand_passes left.active left.decides]

theorem ChecksLeft.unready (left : ChecksLeft i s (readyCheck s :: rest)) (unready : s.phase ≠ .ready) :
    execOn i s = .next (s.faulted 0x20 0 (encode i)) :=
  left.raises (by simp [readyCheck, phaseCheck, unready]) (show 0 < 2 ^ 32 by decide)

theorem ChecksLeft.ready (left : ChecksLeft i s (readyCheck s :: rest)) (ready : s.phase = .ready) :
    ChecksLeft i s rest :=
  left.next (by simp [readyCheck, phaseCheck, ready])

theorem ChecksLeft.badRow {r : BitVec 12} (left : ChecksLeft i s (rowCheck s r :: rest))
    (past : s.cfg.batch.toNat ≤ r.toNat) : execOn i s = .next (s.faulted 0x22 1 (encode i)) :=
  left.raises (decide_eq_true past) (show 1 < 2 ^ 32 by decide)

/-- A command that needs a mode and a slice, up to its slice check (R98 steps 4 to 6). -/
theorem slice_command {spatial : Bool} {j : BitVec 12}
    (checks : commandChecks i s = readyCheck s :: modeCheck s spatial :: sliceCheck s j :: rest) :
    (s.phase ≠ .fault → s.phase ≠ .ready → execOn i s = .next (s.faulted 0x20 0 (encode i))) ∧
    (s.phase = .ready → s.cfg.spatial = !spatial → execOn i s = .next (s.faulted 0x20 1 (encode i))) ∧
    (s.phase = .ready → s.cfg.spatial = spatial → s.derived.numSlices.toNat ≤ j.toNat →
      execOn i s = .next (s.faulted 0x22 0 (encode i))) ∧
    (s.phase = .ready → s.cfg.spatial = spatial → j.toNat < s.derived.numSlices.toNat → ChecksLeft i s rest) := by
  have inReady (ready : s.phase = .ready) : ChecksLeft i s (modeCheck s spatial :: sliceCheck s j :: rest) :=
    (ChecksLeft.start (by rw [ready]; decide) checks).ready ready
  refine ⟨fun active => (ChecksLeft.start active checks).unready, fun ready other => ?_, fun ready mode past => ?_,
    fun ready mode slice => ?_⟩
  · exact (inReady ready).raises (by simp [modeCheck, other]) (show 1 < 2 ^ 32 by decide)
  · exact ((inReady ready).next ((modeCheck_passes _ _).2 mode)).raises (decide_eq_true past)
      (show 0 < 2 ^ 32 by decide)
  · exact ((inReady ready).next ((modeCheck_passes _ _).2 mode)).next ((sliceCheck_passes _ _).2 slice)

end Checks

/-- R94 for the format of `MULB` and `GACB`: bits 23:12 must be zero. -/
theorem decode_formatJ_nonzeroField {c : Word} (opcode : opcField c = 0x11 ∨ opcField c = 0x22)
    (nonzero : rField c ≠ 0) : decode c = .error .nonzeroField := by
  rcases opcode with opcode | opcode <;> rw [decode, opcode] <;> exact if_neg (by simpa using nonzero)

/-! ### The tables, entry by entry (R152 to R154) -/

theorem elem_loadTable (s : State.Of p) (tag : LutTag) {entries : List α} {i : Nat} {v : α}
    (entry : entries[i]? = some v) : (s.loadTable tag entries).elem .lutmem i = v :=
  Memory.read_ofList _ _ _ _ entry

theorem elem_mulvEffect (s : State.Of p) (r j : Nat) {k : Nat} (hk : k < s.cfg.k.toNat) :
    (mulvEffect r j s).elem .lutmem k = s.dot j k (s.segmentLinear r j) :=
  elem_loadTable _ _ (tableRow_entry s r j k hk)

theorem elem_mulbEffect (s : State.Of p) (j : Nat) {r k : Nat} (hr : r < s.cfg.batch.toNat) (hk : k < s.cfg.k.toNat) :
    (mulbEffect j s).elem .lutmem (s.cfg.lutIndexB r k) = s.dot j k (s.segmentLinear r j) :=
  elem_loadTable _ _ (tableRows_entry s j r k hr hk)

theorem elem_mulsEffect (s : State.Of p) (n j : Nat) {k pos : Nat} (hk : k < s.cfg.k.toNat)
    (hpos : pos < s.cfg.positions) :
    (mulsEffect n j s).elem .lutmem (s.cfg.lutIndexS k pos) = s.dot j k (s.segmentSpatial n j pos) :=
  elem_loadTable _ _ (tablePlanes_entry s n j k pos hk hpos)

/-- Settles O30: the checks in their order, then the table of the row. -/
theorem mulvBuildsRowTable : Obligations.MulvBuildsRowTable := by
  intro r j s w
  have word : encode (.mulv r j) = w := assemble_eq_or _ r j
  simp only [exec_eq_execOn, ← word]
  obtain ⟨phase, mode, slice, left⟩ := slice_command (i := .mulv r j) (s := s) rfl
  refine ⟨phase, mode, slice, fun ready linear hj => (left ready linear hj).badRow, fun ready linear hj hr => ?_⟩
  have passed := (left ready linear hj).next ((rowCheck_passes _ _).2 hr)
  exact ⟨_, passed.effect nofun, mulvEffect_eq r j s, fun k => elem_mulvEffect s _ _⟩

/-- Settles O31: the checks in their order, then the tables of all rows. -/
theorem mulbBuildsBatchTable : Obligations.MulbBuildsBatchTable := by
  intro j s w
  have word : encode (.mulb j) = w := assemble_eq_or _ 0 j
  refine ⟨fun c opcode nonzero => execWord_illegal exec (decode_formatJ_nonzeroField (.inl opcode) nonzero), ?_⟩
  simp only [exec_eq_execOn, ← word]
  obtain ⟨phase, mode, slice, left⟩ := slice_command (i := .mulb j) (s := s) rfl
  exact ⟨phase, mode, slice, fun ready linear hj => ⟨_, (left ready linear hj).effect nofun, mulbEffect_eq j s,
    fun r k => elem_mulbEffect s _⟩⟩

/-- Settles O32: the checks in their order, then the table of the image. -/
theorem mulsBuildsPlaneTable : Obligations.MulsBuildsPlaneTable := by
  intro n j s w P
  have word : encode (.muls n j) = w := assemble_eq_or _ n j
  simp only [exec_eq_execOn, ← word]
  obtain ⟨phase, mode, slice, left⟩ := slice_command (i := .muls n j) (s := s) rfl
  refine ⟨phase, mode, slice, fun ready spatial hj => (left ready spatial hj).badRow, fun ready spatial hj hn => ?_⟩
  have passed := (left ready spatial hj).next ((rowCheck_passes _ _).2 hn)
  exact ⟨_, passed.effect nofun, mulsEffect_eq n j s, fun k pos => elem_mulsEffect s _ _⟩

/-- Settles O33: both entries are the same product. -/
theorem batchTableAgreesWithRowTable : Obligations.BatchTableAgreesWithRowTable := by
  intro r j s t u ready linear hj hr ht hu k hk
  obtain ⟨-, -, -, -, batchTable⟩ := mulbBuildsBatchTable j s
  obtain ⟨-, -, -, -, rowTable⟩ := mulvBuildsRowTable r j s
  obtain ⟨t', ht', -, batchEntry⟩ := batchTable ready linear hj
  obtain ⟨u', hu', -, rowEntry⟩ := rowTable ready linear hj hr
  cases ht.symm.trans ht'
  cases hu.symm.trans hu'
  exact (batchEntry r.toNat k hr hk).trans (rowEntry k hk).symm

/-! ### `FWDL`, output by output, over any arithmetic (R190) -/

/-- The first `n` slices of an output of R190: from zero, the products that the decoded indices select. -/
def State.Of.linearSum (s : State.Of p) (r l n : Nat) : α :=
  (List.range n).foldl
    (fun acc j => p.real.radd acc (s.dot j (s.code (s.cfg.decIndexLinear j l)) (s.segmentLinear r j))) p.real.rzero

/-- What `FWDL` leaves in an output (`elem_fwdlEffect`): every slice, and then the bias. -/
def State.Of.linearOutput (s : State.Of p) (r l : Nat) : α :=
  p.real.radd (s.linearSum r l s.derived.numSlices.toNat) (s.elem .biasmem l)

theorem linearSum_succ (s : State.Of p) (r l n : Nat) : s.linearSum r l (n + 1) =
    p.real.radd (s.linearSum r l n) (s.dot n (s.code (s.cfg.decIndexLinear n l)) (s.segmentLinear r n)) := by
  rw [State.Of.linearSum, List.range_succ, List.foldl_append]
  rfl

section Linear

variable {s t : State.Of p}

theorem SameInputs.code (same : SameInputs s t) (i : Nat) : t.code i = s.code i := by
  rw [State.Of.code, same.elem .decmem (by decide) (by decide), State.Of.code]

theorem SameInputs.dot_segmentLinear (same : SameInputs s t) (j k r : Nat) :
    t.dot j k (t.segmentLinear r j) = s.dot j k (s.segmentLinear r j) := by
  rw [same]
  rfl

/-- The scatter-adds of one slice to one output: the entry of its row that the decoded index selects. -/
theorem addedTo_gacbContributions (s : State.Of p) (j : Nat) {r l : Nat} (hr : r < s.cfg.batch.toNat)
    (hl : l < s.cfg.numOut.toNat) : addedTo (s.cfg.outIndexLinear r l) (s.gacbContributions j) =
      [s.elem .lutmem (s.cfg.lutIndexB r (s.code (s.cfg.decIndexLinear j l)))] :=
  addedTo_rows _ _ _ r l hr hl

theorem addedTo_gacbContributions_past (s : State.Of p) (j : Nat) {e : Nat}
    (past : s.cfg.batch.toNat * s.cfg.numOut.toNat ≤ e) : addedTo e (s.gacbContributions j) = [] :=
  addedTo_rows_past _ _ _ e past

theorem biasContributions_linear (linear : s.cfg.spatial = false) : s.biasContributions =
    (List.range s.cfg.batch.toNat).flatMap fun r =>
      (List.range s.cfg.numOut.toNat).map fun l => (r * s.cfg.numOut.toNat + l, s.elem .biasmem l) := by
  rw [State.Of.biasContributions, linear]
  rfl

theorem elem_biasEffect (s : State.Of p) (e : Nat) :
    (biasEffect s).elem .outmem e = (addedTo e s.biasContributions).foldl p.real.radd (s.elem .outmem e) :=
  read_scatterAdd_addedTo _ _ _

theorem elem_zeroEffect (s : State.Of p) (e : Nat) : (zeroEffect s).elem .outmem e =
    if e < s.derived.outExtent.toNat then p.real.rzero else s.elem .outmem e :=
  Memory.read_fill _ _ _ _ _

/-- One slice of `FWDL` on a block whose inputs are those of the well-kept `READY` state `s`. -/
theorem elem_linearSlice (h : s.Ready) (hp : p.Valid) (linear : s.cfg.spatial = false) (same : SameInputs s t)
    {r l j : Nat} (hr : r < s.cfg.batch.toNat) (hl : l < s.cfg.numOut.toNat) (hj : j < s.derived.numSlices.toNat) :
    (linearSlice t j).elem .outmem (s.cfg.outIndexLinear r l) = p.real.radd (t.elem .outmem (s.cfg.outIndexLinear r l))
      (s.dot j (s.code (s.cfg.decIndexLinear j l)) (s.segmentLinear r j)) := by
  have below : s.code (s.cfg.decIndexLinear j l) < s.cfg.k.toNat := h.code_lt hp (h.decIndexLinear_lt hp linear hj hl)
  have loaded : SameInputs s (mulbEffect j t) := same.trans rfl
  have added := addedTo_gacbContributions (mulbEffect j t) j (loaded.cfg ▸ hr) (loaded.cfg ▸ hl)
  have entry := elem_mulbEffect t j (same.cfg ▸ hr) (same.cfg ▸ below)
  rw [same.cfg] at entry
  rw [loaded.cfg, loaded.code, entry, same.dot_segmentLinear] at added
  rw [linearSlice, gacbEffect, gather_elem_outmem, added]
  rfl

theorem elem_linearSlice_past (same : SameInputs s t) (j : Nat) {e : Nat}
    (past : s.cfg.batch.toNat * s.cfg.numOut.toNat ≤ e) : (linearSlice t j).elem .outmem e = t.elem .outmem e := by
  have loaded : SameInputs s (mulbEffect j t) := same.trans rfl
  rw [linearSlice, gacbEffect, gather_elem_outmem, addedTo_gacbContributions_past _ _ (loaded.cfg ▸ past)]
  rfl

/-- The state in which `FWDL` has done `n` slices. -/
def afterSlices (s : State.Of p) (n : Nat) : State.Of p := (List.range n).foldl linearSlice (zeroEffect s)

theorem afterSlices_succ (s : State.Of p) (n : Nat) : afterSlices s (n + 1) = linearSlice (afterSlices s n) n := by
  rw [afterSlices, List.range_succ, List.foldl_append]
  rfl

theorem sameInputs_afterSlices (s : State.Of p) (n : Nat) : SameInputs s (afterSlices s n) :=
  (sameInputs_zero s).trans (SameInputs.foldl linearSlice sameInputs_linearSlice _ _)

theorem fwdlEffect_eq (s : State.Of p) : fwdlEffect s = biasEffect (afterSlices s s.derived.numSlices.toNat) := rfl

theorem elem_afterSlices (h : s.Ready) (hp : p.Valid) (linear : s.cfg.spatial = false) {r l n : Nat}
    (hr : r < s.cfg.batch.toNat) (hl : l < s.cfg.numOut.toNat) (hn : n ≤ s.derived.numSlices.toNat) :
    (afterSlices s n).elem .outmem (s.cfg.outIndexLinear r l) = s.linearSum r l n := by
  induction n with
  | zero => exact (elem_zeroEffect s _).trans (if_pos (h.outIndexLinear_lt hp linear hr hl))
  | succ n ih =>
    rw [afterSlices_succ, elem_linearSlice h hp linear (sameInputs_afterSlices s n) hr hl hn,
      ih (Nat.le_of_succ_le hn), linearSum_succ]

theorem elem_afterSlices_past (h : s.Ready) (hp : p.Valid) (linear : s.cfg.spatial = false) {e : Nat}
    (past : s.derived.outExtent.toNat ≤ e) (n : Nat) : (afterSlices s n).elem .outmem e = s.elem .outmem e := by
  induction n with
  | zero => exact (elem_zeroEffect s e).trans (if_neg past.not_gt)
  | succ n ih =>
    rw [afterSlices_succ,
      elem_linearSlice_past (sameInputs_afterSlices s n) n (h.outExtent_linear hp linear ▸ past), ih]

/-- Every output of `FWDL` (R190). -/
theorem elem_fwdlEffect (h : s.Ready) (hp : p.Valid) (linear : s.cfg.spatial = false) {r l : Nat}
    (hr : r < s.cfg.batch.toNat) (hl : l < s.cfg.numOut.toNat) :
    (fwdlEffect s).elem .outmem (s.cfg.outIndexLinear r l) = s.linearOutput r l := by
  have same := sameInputs_afterSlices s s.derived.numSlices.toNat
  have bias := biasContributions_linear (same.cfg ▸ linear)
  rw [same.cfg] at bias
  rw [fwdlEffect_eq, elem_biasEffect, bias, Cfg.outIndexLinear, addedTo_rows _ _ _ r l hr hl,
    same.elem .biasmem (by decide) (by decide)]
  exact congrArg (p.real.radd · _) (elem_afterSlices h hp linear hr hl le_rfl)

theorem elem_fwdlEffect_past (h : s.Ready) (hp : p.Valid) (linear : s.cfg.spatial = false) {e : Nat}
    (past : s.derived.outExtent.toNat ≤ e) : (fwdlEffect s).elem .outmem e = s.elem .outmem e := by
  have same := sameInputs_afterSlices s s.derived.numSlices.toNat
  have bias := biasContributions_linear (same.cfg ▸ linear)
  rw [same.cfg] at bias
  rw [fwdlEffect_eq, elem_biasEffect, bias, addedTo_rows_past _ _ _ e (h.outExtent_linear hp linear ▸ past)]
  exact elem_afterSlices_past h hp linear past _

theorem execOn_fwdl (ready : s.phase = .ready) (linear : s.cfg.spatial = false) :
    execOn .fwdl s = .next (fwdlEffect s) :=
  (((ChecksLeft.start (by rw [ready]; decide) rfl).ready ready).next ((modeCheck_passes _ _).2 linear)).effect
    nofun

end Linear

/-! ### Exact arithmetic (R11, R150) -/

/-- With the exact rationals a fold of additions is a sum. -/
theorem foldl_exact_radd (n : Nat) (f : Nat → ℚ) :
    (List.range n).foldl (fun acc m => exactRationals.radd acc (f m)) exactRationals.rzero =
      ∑ m ∈ Finset.range n, f m := by
  induction n with
  | zero => rfl
  | succ n ih =>
    rw [List.range_succ, List.foldl_append, ih, Finset.sum_range_succ]
    rfl

theorem dotWith_exact (width : Nat) (d x : Nat → ℚ) :
    dotWith exactRationals width d x = ∑ m ∈ Finset.range width, d m * x m :=
  foldl_exact_radd width fun m => d m * x m

theorem linearOutput_exact {p : Params ℚ} (real : p.real = exactRationals) (s : State.Of p) (r l : Nat) :
    s.linearOutput r l = (∑ j ∈ Finset.range s.derived.numSlices.toNat, ∑ m ∈ Finset.range s.cfg.m.toNat,
      s.elem .cbmem (s.cfg.cbIndex j m (s.code (s.cfg.decIndexLinear j l))) * s.segmentLinear r j m) +
      s.elem .biasmem l := by
  simp only [State.Of.linearOutput, State.Of.linearSum, State.Of.dot, real, dotWith_exact, foldl_exact_radd]
  rfl

/-- Settles O34: `FWDL` computes `linearOutput` over any arithmetic, and exactly that is the sum. -/
theorem exactDotIsSum : Obligations.ExactDotIsSum := by
  refine ⟨dotWith_exact, fun p s hp real inv ready linear => ?_⟩
  have h := inv.ready ready
  exact ⟨_, execOn_fwdl ready linear,
    fun r l hr hl => (elem_fwdlEffect h hp linear hr hl).trans (linearOutput_exact real s r l),
    fun e => elem_fwdlEffect_past h hp linear⟩

/-! ### The special values of binary32 (R156, log 4) -/

/-- A pattern is its sign, its exponent and its fraction. -/
theorem f32Signed_fields (w : Word) : f32Signed (f32Negative w) (f32Exponent w * 2 ^ 23 + f32Fraction w) = w := by
  have := w.isLt
  apply BitVec.eq_of_toNat_eq
  simp only [f32Signed, f32Negative, f32Exponent, f32Fraction, BitVec.extractLsb'_toNat, BitVec.msb_eq_decide,
    BitVec.toNat_ofNat, Nat.shiftRight_eq_div_pow, decide_eq_true_eq]
  split <;> omega

theorem f32_ext {a b : Word} (sign : f32Negative a = f32Negative b) (exponent : f32Exponent a = f32Exponent b)
    (fraction : f32Fraction a = f32Fraction b) : a = b := by
  rw [← f32Signed_fields a, sign, exponent, fraction, f32Signed_fields]

theorem f32IsInf_iff (w : Word) : f32IsInf w = true ↔ f32Exponent w = 255 ∧ f32Fraction w = 0 := by
  simp [f32IsInf]

theorem f32IsNaN_iff (w : Word) : f32IsNaN w = true ↔ f32Exponent w = 255 ∧ f32Fraction w ≠ 0 := by
  simp [f32IsNaN]

/-- The exponent 255 is that of the NaNs and the infinities. -/
theorem f32_special_iff (w : Word) : f32Exponent w = 255 ↔ f32IsNaN w = true ∨ f32IsInf w = true := by
  rw [f32IsNaN_iff, f32IsInf_iff]
  tauto

theorem f32Magnitude_eq_zero_iff (w : Word) : f32Magnitude w = 0 ↔ f32Exponent w = 0 ∧ f32Fraction w = 0 := by
  unfold f32Magnitude
  split
  · next zero => simp [zero]
  · next nonzero => simp [nonzero]

/-- The zeros are the patterns whose lower 31 bits are 0. -/
theorem f32Magnitude_eq_zero_iff_setWidth (w : Word) : f32Magnitude w = 0 ↔ w.setWidth 31 = 0#31 := by
  rw [f32Magnitude_eq_zero_iff, ← BitVec.toNat_inj, BitVec.toNat_setWidth, f32Exponent, f32Fraction,
    BitVec.extractLsb'_toNat, BitVec.extractLsb'_toNat, Nat.shiftRight_eq_div_pow, BitVec.toNat_ofNat]
  omega

theorem eq_negativeZero_iff (w : Word) : w = 0x80000000#32 ↔ f32Negative w = true ∧ f32Magnitude w = 0 := by
  constructor
  · rintro rfl
    decide
  · rw [f32Magnitude_eq_zero_iff]
    rintro ⟨negative, exponent, fraction⟩
    exact f32_ext negative exponent fraction

/-- U6: whichever NaN is chosen, it is one. -/
theorem f32IsNaN_f32NaN (choice : Bool × Fin 8388607) : f32IsNaN (f32NaN choice) = true := by
  have := choice.2.isLt
  rw [f32IsNaN_iff, f32NaN, f32Exponent_signed _ _ (by omega), f32Fraction_signed _ _ (by omega)]
  omega

section Special

variable {a b : Word}

theorem f32IsNaN_of_isInf (inf : f32IsInf a = true) : f32IsNaN a = false := by
  rw [f32IsInf_iff] at inf
  simp [f32IsNaN, inf]

theorem f32Magnitude_ne_zero_of_isInf (inf : f32IsInf a = true) : f32Magnitude a ≠ 0 := by
  rw [f32IsInf_iff] at inf
  rw [Ne, f32Magnitude_eq_zero_iff]
  omega

theorem radd_nan (nan : f32IsNaN a = true ∨ f32IsNaN b = true) : f32IsNaN (radd a b) = true := by
  have sum : radd a b = f32NaN (Config.nanOfAdd a b) := if_pos (Bool.or_eq_true _ _ ▸ nan)
  rw [sum, f32IsNaN_f32NaN]

theorem rmul_nan (nan : f32IsNaN a = true ∨ f32IsNaN b = true) : f32IsNaN (rmul a b) = true := by
  have product : rmul a b = f32NaN (Config.nanOfMul a b) := if_pos (Bool.or_eq_true _ _ ▸ nan)
  rw [product, f32IsNaN_f32NaN]

/-- Infinities of opposite sign. -/
theorem radd_opposite_infinities (infA : f32IsInf a = true) (infB : f32IsInf b = true)
    (opposite : f32Negative a ≠ f32Negative b) : f32IsNaN (radd a b) = true := by
  have sum : radd a b = f32NaN (Config.nanOfAdd a b) := by
    change f32Add a b = _
    simp [f32Add, f32IsNaN_of_isInf infA, f32IsNaN_of_isInf infB, infA, infB, opposite]
  rw [sum, f32IsNaN_f32NaN]

/-- An infinity on the left, with no infinity of the other sign. -/
theorem radd_infinity (infA : f32IsInf a = true) (noNaN : f32IsNaN b = false)
    (agree : f32IsInf b = true → f32Negative a = f32Negative b) : radd a b = a := by
  change f32Add a b = a
  simp +contextual [f32Add, f32IsNaN_of_isInf infA, infA, noNaN, agree]

/-- An infinity on the right. -/
theorem radd_finite_infinity (finite : f32Exponent a ≠ 255) (infB : f32IsInf b = true) : radd a b = b := by
  obtain ⟨noNaN, noInf⟩ := f32_finite a finite
  change f32Add a b = b
  simp [f32Add, noNaN, noInf, f32IsNaN_of_isInf infB, infB]

/-- Where a factor is an infinity and none is a NaN, a zero makes the product invalid and nothing else does. -/
theorem rmul_infinity (inf : f32IsInf a = true ∨ f32IsInf b = true) (noNaNA : f32IsNaN a = false)
    (noNaNB : f32IsNaN b = false) : rmul a b =
      if f32Magnitude a = 0 ∨ f32Magnitude b = 0 then f32NaN (Config.nanOfMul a b)
      else f32Inf (f32Negative a != f32Negative b) := by
  change f32Mul a b = _
  simp [f32Mul, inf, noNaNA, noNaNB]

theorem rmul_infinity_zero (inf : f32IsInf a = true) (zero : f32Magnitude b = 0) :
    f32IsNaN (rmul a b) = true ∧ f32IsNaN (rmul b a) = true := by
  have noNaN : f32IsNaN b = false := by
    rw [f32Magnitude_eq_zero_iff] at zero
    simp [f32IsNaN, zero]
  rw [rmul_infinity (.inl inf) (f32IsNaN_of_isInf inf) noNaN, if_pos (.inr zero),
    rmul_infinity (.inr inf) noNaN (f32IsNaN_of_isInf inf), if_pos (.inl zero)]
  exact ⟨f32IsNaN_f32NaN _, f32IsNaN_f32NaN _⟩

theorem rmul_infinity_nonzero (inf : f32IsInf a = true) (noNaN : f32IsNaN b = false) (nonzero : f32Magnitude b ≠ 0) :
    rmul a b = f32Inf (f32Negative a != f32Negative b) ∧ rmul b a = f32Inf (f32Negative a != f32Negative b) := by
  have nonzeroA := f32Magnitude_ne_zero_of_isInf inf
  rw [rmul_infinity (.inl inf) (f32IsNaN_of_isInf inf) noNaN, if_neg (by simp [nonzeroA, nonzero]),
    rmul_infinity (.inr inf) noNaN (f32IsNaN_of_isInf inf), if_neg (by simp [nonzeroA, nonzero]), bne_comm]
  exact ⟨rfl, rfl⟩

/-- The other sign, and the same exponent and fraction. -/
theorem f32_xor_signBit (a : Word) : f32Negative (a ^^^ 0x80000000#32) = !f32Negative a ∧
    f32IsInf (a ^^^ 0x80000000#32) = f32IsInf a := by
  simp [f32IsInf, f32Negative, f32Exponent, f32Fraction, BitVec.extractLsb'_xor,
    show (0x80000000#32).msb = true by decide]

/-! ### A sum is -0.0 only of two -0.0 -/

/-- Rounding keeps a value that is not zero away from zero, where it may not underflow. -/
theorem roundedBits_eq_zero_iff (n : Nat) : roundedBits n 0 = 0 ↔ n = 0 := by
  refine ⟨fun zero => ?_, fun zero => by rw [zero]; rfl⟩
  obtain ⟨-, -, hcut⟩ := cutAt_shape n 0
  obtain ⟨-, lower, -⟩ := roundTiesEven_spec n (cutAt n 0)
  unfold roundedBits at zero
  rcases hcut with same | ⟨-, large, -⟩
  · rw [same] at zero lower
    omega
  · omega

theorem f32Round_eq_negativeZero_iff (negative : Bool) (n : Nat) :
    f32Round negative n 0 = 0x80000000#32 ↔ negative = true ∧ n = 0 := by
  rw [eq_negativeZero_iff, f32Negative_round, ← roundedBits_eq_zero_iff n, f32Magnitude_eq_zero_iff, f32Round_eq,
    f32Exponent_signed _ _ (by omega), f32Fraction_signed _ _ (by omega)]
  exact and_congr_right fun _ => by omega

/-- A NaN or an infinity among the operands of a sum is one in the result. -/
theorem f32Exponent_radd_special (special : f32Exponent a = 255 ∨ f32Exponent b = 255) :
    f32Exponent (radd a b) = 255 := by
  by_cases nan : f32IsNaN a = true ∨ f32IsNaN b = true
  · exact (f32_special_iff _).2 (.inl (radd_nan nan))
  obtain ⟨noNaNA, noNaNB⟩ := not_or.1 nan
  by_cases infA : f32IsInf a = true
  · by_cases opposite : f32IsInf b = true ∧ f32Negative a ≠ f32Negative b
    · exact (f32_special_iff _).2 (.inl (radd_opposite_infinities infA opposite.1 opposite.2))
    · rw [radd_infinity infA (eq_false_of_ne_true noNaNB) fun infB => not_not.1 (not_and.1 opposite infB)]
      exact (f32_special_iff a).2 (.inr infA)
  · have finite : f32Exponent a ≠ 255 := mt (f32_special_iff a).1 (not_or.2 ⟨noNaNA, infA⟩)
    have exponent : f32Exponent b = 255 := special.resolve_left finite
    rw [radd_finite_infinity finite (((f32_special_iff b).1 exponent).resolve_left noNaNB), exponent]

theorem radd_eq_negativeZero_iff (a b : Word) :
    radd a b = 0x80000000#32 ↔ a = 0x80000000#32 ∧ b = 0x80000000#32 := by
  by_cases finite : f32Exponent a ≠ 255 ∧ f32Exponent b ≠ 255
  · obtain ⟨finiteA, finiteB⟩ := finite
    rw [radd_eq_round finiteA finiteB, f32Round_eq_negativeZero_iff, eq_negativeZero_iff, eq_negativeZero_iff,
      sumNegative, f32Scaled_eq_withSign, f32Scaled_eq_withSign]
    cases f32Negative a <;> cases f32Negative b <;> simp <;> omega
  · have special : f32Exponent (radd a b) = 255 := f32Exponent_radd_special (by omega)
    have zero : f32Exponent 0x80000000#32 = 0 := by decide
    refine ⟨fun sum => ?_, fun operands => ?_⟩
    · rw [sum, zero] at special
      cases special
    · rw [operands.1, operands.2, zero] at finite
      exact absurd (by decide) finite

end Special

/-- Settles O37: by the kind of the operands, once each for sums and for products. -/
theorem invalidOperationsGiveNaN : Obligations.InvalidOperationsGiveNaN := by
  intro a b
  refine ⟨fun nan => ⟨radd_nan nan, rmul_nan nan⟩, fun inf zero => ?_, fun inf opposite => ?_, fun inf other => ?_,
    fun inf noNaN nonzero => ?_, radd_eq_negativeZero_iff a b⟩
  · exact rmul_infinity_zero inf ((f32Magnitude_eq_zero_iff_setWidth b).2 zero)
  · obtain ⟨sign, infinity⟩ := f32_xor_signBit a
    subst opposite
    exact radd_opposite_infinities inf (infinity.trans inf) (by simp [sign])
  · rcases other with finite | rfl
    · obtain ⟨noNaN, noInf⟩ := f32_finite b finite
      exact ⟨radd_infinity inf noNaN (by simp [noInf]), radd_finite_infinity finite inf⟩
    · have sum := radd_infinity inf (f32IsNaN_of_isInf inf) fun _ => rfl
      exact ⟨sum, sum⟩
  · obtain ⟨left, right⟩ := rmul_infinity_nonzero inf noNaN (mt (f32Magnitude_eq_zero_iff_setWidth b).1 nonzero)
    rw [left, right]
    cases f32Negative a <;> cases f32Negative b <;> decide

/-- Settles O36: the accumulator starts as +0.0, and no sum of it is -0.0 while it is not. -/
theorem dotIsNeverNegativeZero : Obligations.DotIsNeverNegativeZero := fun width d x =>
  List.foldlRecOn (motive := (· ≠ 0x80000000#32)) (List.range width) _ (show (0#32 : Word) ≠ 0x80000000#32 by decide)
    fun acc ih m _ zero => ih ((radd_eq_negativeZero_iff acc (rmul (d m) (x m))).1 zero).1

end Sys2Proof.Machine

/-! The obligations about the gather-accumulator (spec/43_gather_accumulate.md).

A command that adds into `OUTMEM` is known by the values that it adds to one output element (`addedTo`): one table entry
in a linear gather, the entries of the taps that lie in the input in a window gather (`tapValues`), one bias in `BIAS`.
What comes before the first of them is the checks in their order (`ready_command`, `slice_command`) and, for a gather,
the tag (`ChecksLeft.wrongTag`, `ChecksLeft.rightTag`).

`FWDS` adds the lists of its slices one after the other (`elem_foldl_added`), so an output is known over any arithmetic
(`elem_fwdsEffect`), and R178 item 1 is the case in which these lists are empty. -/

namespace Sys2Proof.Machine

variable {α : Type} {p : Params α}

/-! ### The checks of these commands (R98, R171) -/

section Checks

variable {i : Instr} {s : State.Of p}

/-- A command that only needs the phase `READY`. -/
theorem ready_command (checks : commandChecks i s = [readyCheck s]) (notReset : i ≠ .reset) :
    (s.phase ≠ .fault → s.phase ≠ .ready → execOn i s = .next (s.faulted 0x20 0 (encode i))) ∧
    (s.phase = .ready → execOn i s = .next (commandEffect i s)) :=
  ⟨fun active => (ChecksLeft.start active checks).unready,
    fun ready => ((ChecksLeft.start (by rw [ready]; decide) checks).ready ready).effect notReset⟩

@[simp] theorem tagCheck_passes (s : State.Of p) (kind : LutKind) (j r : BitVec 12) :
    (tagCheck s kind j r).fails = false ↔ s.lut = ⟨true, kind, j, r⟩ := by
  rcases tag : s.lut with ⟨valid, kind', j', r'⟩
  simp [tagCheck, tag, and_assoc]

theorem ChecksLeft.wrongTag {kind : LutKind} {j r : BitVec 12} {rest : List Check}
    (left : ChecksLeft i s (tagCheck s kind j r :: rest)) (other : s.lut ≠ ⟨true, kind, j, r⟩) :
    execOn i s = .next (s.faulted 0x20 2 (encode i)) :=
  left.raises (Bool.eq_true_of_not_eq_false (mt (tagCheck_passes s kind j r).1 other)) (show 2 < 2 ^ 32 by decide)

theorem ChecksLeft.rightTag {kind : LutKind} {j r : BitVec 12} (left : ChecksLeft i s [tagCheck s kind j r])
    (notReset : i ≠ .reset) (tag : s.lut = ⟨true, kind, j, r⟩) : execOn i s = .next (commandEffect i s) :=
  (left.next ((tagCheck_passes s kind j r).2 tag)).effect notReset

end Checks

/-! ### One output element after an addition -/

section OneElement

variable {s : State.Of p} {contributions : List (Nat × α)} {e : Nat} {v : α}

theorem gather_elem_single (added : addedTo e contributions = [v]) :
    (s.gather contributions).elem .outmem e = p.real.radd (s.elem .outmem e) v := by
  rw [gather_elem_outmem, added]
  rfl

theorem gather_elem_untouched (added : addedTo e contributions = []) :
    (s.gather contributions).elem .outmem e = s.elem .outmem e := by
  rw [gather_elem_outmem, added]
  rfl

theorem biasEffect_elem_single (added : addedTo e s.biasContributions = [v]) :
    (biasEffect s).elem .outmem e = p.real.radd (s.elem .outmem e) v := by
  rw [elem_biasEffect, added]
  rfl

theorem biasEffect_elem_untouched (added : addedTo e s.biasContributions = []) :
    (biasEffect s).elem .outmem e = s.elem .outmem e := by
  rw [elem_biasEffect, added]
  rfl

end OneElement

/-! ### `ZERO` (R170) -/

/-- Settles O38: the check of the phase, then `OUTMEM` element by element. -/
theorem zeroClearsOutput : Obligations.ZeroClearsOutput := by
  intro s
  simp only [exec_eq_execOn]
  obtain ⟨phase, effect⟩ := ready_command (i := .zero) (s := s) rfl nofun
  exact ⟨phase, fun ready => ⟨_, effect ready, rfl, elem_zeroEffect s⟩⟩

/-! ### The linear gathers (R172, R173) -/

theorem addedTo_gacvContributions (s : State.Of p) (r j : Nat) {l : Nat} (hl : l < s.cfg.numOut.toNat) :
    addedTo (s.cfg.outIndexLinear r l) (s.gacvContributions r j) =
      [s.elem .lutmem (s.code (s.cfg.decIndexLinear j l))] :=
  (addedTo_map_range _ _ _ _).trans
    (by rw [Cfg.outIndexLinear, if_pos ⟨Nat.le_add_right _ _, Nat.add_lt_add_left hl _⟩, Nat.add_sub_cancel_left])

/-- Rows other than `r` are not touched (R172). -/
theorem addedTo_gacvContributions_outside (s : State.Of p) (r j : Nat) {e : Nat}
    (outside : e < r * s.cfg.numOut.toNat ∨ r * s.cfg.numOut.toNat + s.cfg.numOut.toNat ≤ e) :
    addedTo e (s.gacvContributions r j) = [] :=
  (addedTo_map_range _ _ _ _).trans (if_neg (by omega))

/-- Settles O39: the checks in their order, then the entries added to the row. -/
theorem gacvAddsRow : Obligations.GacvAddsRow := by
  intro r j s w NO
  have word : encode (.gacv r j) = w := assemble_eq_or _ r j
  simp only [exec_eq_execOn, ← word]
  obtain ⟨phase, mode, slice, left⟩ := slice_command (i := .gacv r j) (s := s) rfl
  have inRow (ready linear hj hr) := (left ready linear hj).next ((rowCheck_passes s r).2 hr)
  refine ⟨phase, mode, slice, fun ready linear hj => (left ready linear hj).badRow,
    fun ready linear hj hr => (inRow ready linear hj hr).wrongTag, fun ready linear hj hr tag =>
      ⟨_, (inRow ready linear hj hr).rightTag nofun tag, rfl, fun l hl => ?_, fun e outside => ?_⟩⟩
  · exact gather_elem_single (addedTo_gacvContributions s _ _ hl)
  · exact gather_elem_untouched (addedTo_gacvContributions_outside s _ _ outside)

/-- Settles O40: the illegal word, the checks in their order, then the entries added to each row. -/
theorem gacbAddsEveryRow : Obligations.GacbAddsEveryRow := by
  intro j s w NO
  have word : encode (.gacb j) = w := assemble_eq_or _ 0 j
  refine ⟨fun c opcode nonzero => execWord_illegal exec (decode_formatJ_nonzeroField (.inr opcode) nonzero), ?_⟩
  simp only [exec_eq_execOn, ← word]
  obtain ⟨phase, mode, slice, left⟩ := slice_command (i := .gacb j) (s := s) rfl
  refine ⟨phase, mode, slice, fun ready linear hj => (left ready linear hj).wrongTag, fun ready linear hj tag =>
    ⟨_, (left ready linear hj).rightTag nofun tag, rfl, fun r l hr hl => ?_, fun e past => ?_⟩⟩
  · exact gather_elem_single (addedTo_gacbContributions s _ hr hl)
  · exact gather_elem_untouched (addedTo_gacbContributions_past s _ past)

/-! ### The window gather (R174, R175) -/

/-- The values of the taps of slice `j` at one output position of channel `ch`, in ascending `kh`, then `kw`: for a tap
whose input coordinate is in bounds what `entry` has for its code and its input position, for another tap none. -/
def State.Of.tapValues (s : State.Of p) (entry : Nat → Nat → α) (ch oh ow j : Nat) : List α :=
  (List.range s.cfg.kernelH.toNat).flatMap fun kh => (List.range s.cfg.kernelW.toNat).flatMap fun kw =>
    if 0 ≤ s.cfg.tapRow oh kh ∧ s.cfg.tapRow oh kh < s.cfg.inH.toNat ∧
        0 ≤ s.cfg.tapCol ow kw ∧ s.cfg.tapCol ow kw < s.cfg.inW.toNat then
      [entry (s.code (s.cfg.decIndexSpatial j kh kw ch))
        ((s.cfg.tapRow oh kh).toNat * s.cfg.inW.toNat + (s.cfg.tapCol ow kw).toNat)]
    else []

section Window

variable {s t : State.Of p} {ch oh ow : Nat}

theorem SameInputs.tapValues (same : SameInputs s t) (entry : Nat → Nat → α) (j : Nat) :
    t.tapValues entry ch oh ow j = s.tapValues entry ch oh ow j := by
  rw [same]
  rfl

/-- Only the entries of codes below `K` at positions of the input matter (R177). -/
theorem State.Of.Ready.tapValues_congr (h : s.Ready) (hp : p.Valid) (spatial : s.cfg.spatial = true) {j : Nat}
    (hj : j < s.derived.numSlices.toNat) (hch : ch < s.cfg.numOut.toNat) {entry entry' : Nat → Nat → α}
    (agree : ∀ k pos, k < s.cfg.k.toNat → pos < s.cfg.positions → entry k pos = entry' k pos) :
    s.tapValues entry ch oh ow j = s.tapValues entry' ch oh ow j := by
  refine List.flatMap_congr fun kh hkh => List.flatMap_congr fun kw hkw => ?_
  rw [List.mem_range] at hkh hkw
  split
  · next inside =>
    obtain ⟨row, rowBelow, col, colBelow⟩ := inside
    have pos := rowColumn_lt ((Int.toNat_lt row).2 rowBelow) ((Int.toNat_lt col).2 colBelow)
    rw [agree _ _ (h.code_lt hp (h.decIndexSpatial_lt hp spatial hj hkh hkw hch)) pos]
  · rfl

/-- A tap in the padding adds nothing, not even a zero (R174). -/
theorem tapValues_padding (entry : Nat → Nat → α) (j : Nat)
    (padding : ∀ kh kw, kh < s.cfg.kernelH.toNat → kw < s.cfg.kernelW.toNat →
      s.cfg.tapRow oh kh < 0 ∨ (s.cfg.inH.toNat : Int) ≤ s.cfg.tapRow oh kh ∨
      s.cfg.tapCol ow kw < 0 ∨ (s.cfg.inW.toNat : Int) ≤ s.cfg.tapCol ow kw) :
    s.tapValues entry ch oh ow j = [] := by
  refine List.flatMap_eq_nil_iff.2 fun kh hkh => List.flatMap_eq_nil_iff.2 fun kw hkw => if_neg ?_
  have out := padding kh kw (List.mem_range.1 hkh) (List.mem_range.1 hkw)
  omega

/-- What `GACS n, j` adds to an output of its image. -/
theorem addedTo_gacsContributions_eq_tapValues (s : State.Of p) (n j : Nat) (hch : ch < s.cfg.numOut.toNat)
    (hoh : oh < s.derived.outH.toNat) (how : ow < s.derived.outW.toNat) :
    addedTo (s.outIndexSpatial n ch oh ow) (s.gacsContributions n j) =
      s.tapValues (fun k pos => s.elem .lutmem (s.cfg.lutIndexS k pos)) ch oh ow j := by
  rw [addedTo_gacsContributions s n j ch oh ow hch hoh how]
  simp only [addedTo_gacsAt]
  rfl

/-- The outputs of an image are one part of `OUTMEM` (R75). -/
theorem outIndexSpatial_image (s : State.Of p) (n : Nat) (hch : ch < s.cfg.numOut.toNat)
    (hoh : oh < s.derived.outH.toNat) (how : ow < s.derived.outW.toNat) :
    n * s.cfg.numOut.toNat * s.derived.outH.toNat * s.derived.outW.toNat ≤ s.outIndexSpatial n ch oh ow ∧
    s.outIndexSpatial n ch oh ow < (n + 1) * s.cfg.numOut.toNat * s.derived.outH.toNat * s.derived.outW.toNat :=
  ⟨Nat.le_add_right_of_le (Nat.mul_le_mul_right _ (Nat.le_add_right_of_le
    (Nat.mul_le_mul_right _ (Nat.le_add_right _ _)))),
    rowColumn_lt (rowColumn_lt (rowColumn_lt n.lt_succ_self hch) hoh) how⟩

/-- Images other than `n` are not touched (R175). -/
theorem addedTo_gacsContributions_outside (s : State.Of p) (n j : Nat) {e : Nat}
    (outside : e < n * s.cfg.numOut.toNat * s.derived.outH.toNat * s.derived.outW.toNat ∨
      (n + 1) * s.cfg.numOut.toNat * s.derived.outH.toNat * s.derived.outW.toNat ≤ e) :
    addedTo e (s.gacsContributions n j) = [] := by
  refine addedTo_none fun c hc same => ?_
  obtain ⟨ch, oh, ow, hch, hoh, how, index⟩ := mem_gacsContributions hc
  have image := outIndexSpatial_image s n hch hoh how
  omega

theorem addedTo_gacsContributions_otherImage (s : State.Of p) {n m : Nat} (other : m ≠ n) (j : Nat)
    (hch : ch < s.cfg.numOut.toNat) (hoh : oh < s.derived.outH.toNat) (how : ow < s.derived.outW.toNat) :
    addedTo (s.outIndexSpatial n ch oh ow) (s.gacsContributions m j) = [] := by
  refine addedTo_none fun c hc same => ?_
  obtain ⟨ch', oh', ow', hch', hoh', how', index⟩ := mem_gacsContributions hc
  exact other (outIndexSpatial_inj (index.symm.trans same) hch' hoh' how' hch hoh how).1

end Window

/-- Settles O41: the checks in their order, then the values of the taps added to each output of the image. -/
theorem gacsAddsWindow : Obligations.GacsAddsWindow := by
  intro n j s w c NO OH OW KH KW P
  have word : encode (.gacs n j) = w := assemble_eq_or _ n j
  simp only [exec_eq_execOn, ← word]
  obtain ⟨phase, mode, slice, left⟩ := slice_command (i := .gacs n j) (s := s) rfl
  have inImage (ready spatial hj hn) := (left ready spatial hj).next ((rowCheck_passes s n).2 hn)
  refine ⟨phase, mode, slice, fun ready spatial hj => (left ready spatial hj).badRow,
    fun ready spatial hj hn => (inImage ready spatial hj hn).wrongTag, fun ready spatial hj hn tag =>
      ⟨_, (inImage ready spatial hj hn).rightTag nofun tag, rfl, fun ch oh ow hch hoh how => ?_,
        fun e outside => ?_⟩⟩
  · refine (gather_elem_outmem _ _ _).trans ?_
    rw [← State.Of.outIndexSpatial, addedTo_gacsContributions_eq_tapValues s _ _ hch hoh how]
    simp only [Nat.add_assoc]
    rfl
  · exact gather_elem_untouched (addedTo_gacsContributions_outside s _ _ outside)

/-! ### `BIAS` (R176) -/

/-- One value for each row of each of `n` planes of `h` rows of `w` places: what goes to place `q` of row `b` of
plane `a`. -/
theorem addedTo_planes (n h w : Nat) (v : Nat → α) {a b q : Nat} (ha : a < n) (hb : b < h) (hq : q < w) :
    addedTo ((a * h + b) * w + q) ((List.range n).flatMap fun a => (List.range h).flatMap fun b =>
      (List.range w).map fun q => ((a * h + b) * w + q, v b)) = [v b] := by
  have place {a' b' : Nat} {c : Nat × α} (hc : c ∈ (List.range w).map fun q => ((a' * h + b') * w + q, v b'))
      (same : c.1 = (a * h + b) * w + q) : a' * h + b' = a * h + b := by
    simp only [List.mem_map, List.mem_range] at hc
    obtain ⟨q', hq', rfl⟩ := hc
    exact (rowColumn_inj same hq' hq).1
  rw [addedTo_flatMap, flatMap_range_single _ n a ha, addedTo_flatMap, flatMap_range_single _ h b hb,
    addedTo_map_range, if_pos ⟨Nat.le_add_right _ _, Nat.add_lt_add_left hq _⟩]
  · exact fun b' _ other => addedTo_none fun c hc same => other (Nat.add_left_cancel (place hc same))
  · refine fun a' _ other => addedTo_none fun c hc same => ?_
    simp only [List.mem_flatMap, List.mem_range] at hc
    obtain ⟨b', hb', hc⟩ := hc
    exact other (rowColumn_inj (place hc same) hb' hb).1

section Bias

variable {s : State.Of p}

/-- R176 with `BIAS_EN`: the positions of a channel are one row. -/
theorem biasContributions_spatial (spatial : s.cfg.spatial = true) (enabled : s.cfg.biasEn = true) :
    s.biasContributions = (List.range s.cfg.batch.toNat).flatMap fun n =>
      (List.range s.cfg.numOut.toNat).flatMap fun ch =>
        (List.range (s.derived.outH.toNat * s.derived.outW.toNat)).map fun q =>
          ((n * s.cfg.numOut.toNat + ch) * (s.derived.outH.toNat * s.derived.outW.toNat) + q, s.elem .biasmem ch) := by
  rw [State.Of.biasContributions, if_pos spatial, if_pos enabled]
  simp only [Nat.mul_assoc]

theorem biasContributions_disabled (spatial : s.cfg.spatial = true) (disabled : s.cfg.biasEn = false) :
    s.biasContributions = [] := by
  rw [State.Of.biasContributions, if_pos spatial, disabled]
  rfl

theorem addedTo_biasContributions_linear (linear : s.cfg.spatial = false) {r l : Nat} (hr : r < s.cfg.batch.toNat)
    (hl : l < s.cfg.numOut.toNat) :
    addedTo (r * s.cfg.numOut.toNat + l) s.biasContributions = [s.elem .biasmem l] := by
  rw [biasContributions_linear linear, addedTo_rows _ _ _ r l hr hl]

/-- Elements past the output are not touched in linear mode. -/
theorem addedTo_biasContributions_linear_past (linear : s.cfg.spatial = false) {e : Nat}
    (past : s.cfg.batch.toNat * s.cfg.numOut.toNat ≤ e) : addedTo e s.biasContributions = [] := by
  rw [biasContributions_linear linear, addedTo_rows_past _ _ _ e past]

theorem addedTo_biasContributions_spatial (spatial : s.cfg.spatial = true) (enabled : s.cfg.biasEn = true)
    {n ch q : Nat} (hn : n < s.cfg.batch.toNat) (hch : ch < s.cfg.numOut.toNat)
    (hq : q < s.derived.outH.toNat * s.derived.outW.toNat) :
    addedTo ((n * s.cfg.numOut.toNat + ch) * (s.derived.outH.toNat * s.derived.outW.toNat) + q) s.biasContributions =
      [s.elem .biasmem ch] := by
  rw [biasContributions_spatial spatial enabled, addedTo_planes _ _ _ _ hn hch hq]

theorem addedTo_biasContributions_output (spatial : s.cfg.spatial = true) (enabled : s.cfg.biasEn = true)
    {n ch oh ow : Nat} (hn : n < s.cfg.batch.toNat) (hch : ch < s.cfg.numOut.toNat) (hoh : oh < s.derived.outH.toNat)
    (how : ow < s.derived.outW.toNat) :
    addedTo (s.outIndexSpatial n ch oh ow) s.biasContributions = [s.elem .biasmem ch] := by
  rw [← addedTo_biasContributions_spatial spatial enabled hn hch (rowColumn_lt hoh how), State.Of.outIndexSpatial,
    Nat.add_mul (_ * _), Nat.mul_assoc, Nat.add_assoc]

/-- Elements past the output are not touched in spatial mode. -/
theorem addedTo_biasContributions_spatial_past (spatial : s.cfg.spatial = true) (enabled : s.cfg.biasEn = true)
    {e : Nat} (past : s.cfg.batch.toNat * s.cfg.numOut.toNat * (s.derived.outH.toNat * s.derived.outW.toNat) ≤ e) :
    addedTo e s.biasContributions = [] := by
  rw [biasContributions_spatial spatial enabled]
  refine addedTo_none fun c hc same => ?_
  simp only [List.mem_flatMap, List.mem_map, List.mem_range] at hc
  obtain ⟨n, hn, ch, hch, q, hq, rfl⟩ := hc
  exact (past.trans_eq same.symm).not_gt (rowColumn_lt (rowColumn_lt hn hch) hq)

theorem biasEffect_disabled (spatial : s.cfg.spatial = true) (disabled : s.cfg.biasEn = false) : biasEffect s = s := by
  rw [biasEffect, biasContributions_disabled spatial disabled]
  rfl

end Bias

/-- Settles O42: the check of the phase, then the values added in each mode. -/
theorem biasAddsOnce : Obligations.BiasAddsOnce := by
  intro s NO Q
  simp only [exec_eq_execOn]
  obtain ⟨phase, effect⟩ := ready_command (i := .bias) (s := s) rfl nofun
  refine ⟨phase, fun ready linear => ⟨_, effect ready, rfl, fun r l hr hl => ?_, fun e past => ?_⟩,
    fun ready spatial enabled => ⟨_, effect ready, rfl, fun n ch q hn hch hq => ?_, fun e past => ?_⟩,
    fun ready spatial disabled => (effect ready).trans (congrArg _ (biasEffect_disabled spatial disabled))⟩
  · exact biasEffect_elem_single (addedTo_biasContributions_linear linear hr hl)
  · exact biasEffect_elem_untouched (addedTo_biasContributions_linear_past linear past)
  · exact biasEffect_elem_single (addedTo_biasContributions_spatial spatial enabled hn hch hq)
  · exact biasEffect_elem_untouched (addedTo_biasContributions_spatial_past spatial enabled past)

/-! ### `FWDS`, output by output, over any arithmetic (R191, R178) -/

/-- The products that slice `j` adds to an output of image `n`: those of its taps that lie in the input. -/
def State.Of.tapProducts (s : State.Of p) (n ch oh ow j : Nat) : List α :=
  s.tapValues (fun k pos => s.dot j k (s.segmentSpatial n j pos)) ch oh ow j

/-- The slices of an output of R191: from zero, the products of every slice in ascending `j`. -/
def State.Of.spatialSum (s : State.Of p) (n ch oh ow : Nat) : α :=
  ((List.range s.derived.numSlices.toNat).flatMap (s.tapProducts n ch oh ow)).foldl p.real.radd p.real.rzero

/-- What `FWDS` leaves in an output (`elem_fwdsEffect`): every slice, and then the bias if it is enabled. -/
def State.Of.spatialOutput (s : State.Of p) (n ch oh ow : Nat) : α :=
  if s.cfg.biasEn then p.real.radd (s.spatialSum n ch oh ow) (s.elem .biasmem ch) else s.spatialSum n ch oh ow

section Spatial

variable {s t : State.Of p} {n ch oh ow : Nat}

/-- Where each part of a forward command keeps the inputs of `s` and adds a list to an output, all of them add these
lists one after the other. -/
theorem elem_foldl_added {f : State.Of p → Nat → State.Of p} (keeps : ∀ t a, SameInputs t (f t a)) {e : Nat}
    {l : List Nat} {added : Nat → List α}
    (each : ∀ a ∈ l, ∀ t, SameInputs s t → (f t a).elem .outmem e = (added a).foldl p.real.radd (t.elem .outmem e))
    (same : SameInputs s t) :
    (l.foldl f t).elem .outmem e = (l.flatMap added).foldl p.real.radd (t.elem .outmem e) := by
  induction l generalizing t with
  | nil => rfl
  | cons a l ih =>
    rw [List.foldl_cons, ih (fun b hb => each b (List.mem_cons_of_mem a hb)) (same.trans (keeps t a)),
      each a List.mem_cons_self t same, List.flatMap_cons, List.foldl_append]

theorem SameInputs.outIndexSpatial (same : SameInputs s t) :
    t.outIndexSpatial n ch oh ow = s.outIndexSpatial n ch oh ow := by
  rw [State.Of.outIndexSpatial, same.cfg, same.derived, State.Of.outIndexSpatial]

theorem SameInputs.dot_segmentSpatial (same : SameInputs s t) (n j k pos : Nat) :
    t.dot j k (t.segmentSpatial n j pos) = s.dot j k (s.segmentSpatial n j pos) := by
  rw [same]
  rfl

/-- One slice of `FWDS` on a block whose inputs are those of the well-kept `READY` state `s`. -/
theorem elem_spatialSlice (h : s.Ready) (hp : p.Valid) (spatial : s.cfg.spatial = true) (same : SameInputs s t)
    {j : Nat} (hch : ch < s.cfg.numOut.toNat) (hoh : oh < s.derived.outH.toNat) (how : ow < s.derived.outW.toNat)
    (hj : j < s.derived.numSlices.toNat) :
    (spatialSlice n t j).elem .outmem (s.outIndexSpatial n ch oh ow) =
      (s.tapProducts n ch oh ow j).foldl p.real.radd (t.elem .outmem (s.outIndexSpatial n ch oh ow)) := by
  have loaded : SameInputs s (mulsEffect n j t) := same.trans rfl
  have added := addedTo_gacsContributions_eq_tapValues (mulsEffect n j t) n j (loaded.cfg ▸ hch)
    (loaded.derived ▸ hoh) (loaded.derived ▸ how)
  have entries : s.tapValues (fun k pos => (mulsEffect n j t).elem .lutmem ((mulsEffect n j t).cfg.lutIndexS k pos))
      ch oh ow j = s.tapProducts n ch oh ow j :=
    h.tapValues_congr hp spatial hj hch fun k pos hk hpos =>
      (elem_mulsEffect t n j (same.cfg ▸ hk) (same.cfg ▸ hpos)).trans (same.dot_segmentSpatial n j k pos)
  rw [loaded.outIndexSpatial, loaded.tapValues, entries] at added
  rw [spatialSlice, gacsEffect, gather_elem_outmem, added]
  rfl

theorem elem_spatialSlice_otherImage {m : Nat} (other : m ≠ n) (same : SameInputs s t) (j : Nat)
    (hch : ch < s.cfg.numOut.toNat) (hoh : oh < s.derived.outH.toNat) (how : ow < s.derived.outW.toNat) :
    (spatialSlice m t j).elem .outmem (s.outIndexSpatial n ch oh ow) =
      t.elem .outmem (s.outIndexSpatial n ch oh ow) := by
  have loaded : SameInputs s (mulsEffect m j t) := same.trans rfl
  have added := addedTo_gacsContributions_otherImage (mulsEffect m j t) other j (loaded.cfg ▸ hch)
    (loaded.derived ▸ hoh) (loaded.derived ▸ how)
  rw [loaded.outIndexSpatial] at added
  exact gather_elem_untouched added

/-- One image of `FWDS`: to an output only the slices of its own image are added. -/
theorem elem_spatialImage (h : s.Ready) (hp : p.Valid) (spatial : s.cfg.spatial = true) (same : SameInputs s t)
    (m : Nat) (hch : ch < s.cfg.numOut.toNat) (hoh : oh < s.derived.outH.toNat) (how : ow < s.derived.outW.toNat) :
    (spatialImage t m).elem .outmem (s.outIndexSpatial n ch oh ow) = (if m = n then
      (List.range s.derived.numSlices.toNat).flatMap (s.tapProducts n ch oh ow) else []).foldl p.real.radd
        (t.elem .outmem (s.outIndexSpatial n ch oh ow)) := by
  rw [spatialImage, same.derived]
  split
  · next own =>
    subst own
    exact elem_foldl_added (sameInputs_spatialSlice m)
      (fun j hj t same => elem_spatialSlice h hp spatial same hch hoh how (List.mem_range.1 hj)) same
  · next other =>
    rw [elem_foldl_added (added := fun _ => []) (sameInputs_spatialSlice m)
      (fun j _ t same => elem_spatialSlice_otherImage other same j hch hoh how) same,
      List.flatMap_eq_nil_iff.2 fun _ _ => rfl]

/-- The state in which `FWDS` has done its images. -/
def afterImages (s : State.Of p) : State.Of p := (List.range s.cfg.batch.toNat).foldl spatialImage (zeroEffect s)

theorem sameInputs_afterImages (s : State.Of p) : SameInputs s (afterImages s) :=
  (sameInputs_zero s).trans (SameInputs.foldl spatialImage sameInputs_spatialImage _ _)

theorem fwdsEffect_eq (s : State.Of p) : fwdsEffect s = biasEffect (afterImages s) := rfl

theorem elem_afterImages (h : s.Ready) (hp : p.Valid) (spatial : s.cfg.spatial = true) (hn : n < s.cfg.batch.toNat)
    (hch : ch < s.cfg.numOut.toNat) (hoh : oh < s.derived.outH.toNat) (how : ow < s.derived.outW.toNat) :
    (afterImages s).elem .outmem (s.outIndexSpatial n ch oh ow) = s.spatialSum n ch oh ow := by
  rw [afterImages, elem_foldl_added sameInputs_spatialImage
    (fun m _ t same => elem_spatialImage h hp spatial same m hch hoh how) (sameInputs_zero s),
    flatMap_range_single _ _ n hn fun m _ other => if_neg other, if_pos rfl, elem_zeroEffect,
    if_pos (h.outIndexSpatial_lt hp spatial hn hch hoh how), State.Of.spatialSum]

/-- Every output of `FWDS` (R191). -/
theorem elem_fwdsEffect (h : s.Ready) (hp : p.Valid) (spatial : s.cfg.spatial = true) (hn : n < s.cfg.batch.toNat)
    (hch : ch < s.cfg.numOut.toNat) (hoh : oh < s.derived.outH.toNat) (how : ow < s.derived.outW.toNat) :
    (fwdsEffect s).elem .outmem (s.outIndexSpatial n ch oh ow) = s.spatialOutput n ch oh ow := by
  have same := sameInputs_afterImages s
  have sum := elem_afterImages h hp spatial hn hch hoh how
  rw [fwdsEffect_eq, State.Of.spatialOutput]
  split
  · next enabled =>
    have bias := addedTo_biasContributions_output (same.cfg ▸ spatial) (same.cfg ▸ enabled) (same.cfg ▸ hn)
      (same.cfg ▸ hch) (same.derived ▸ hoh) (same.derived ▸ how)
    rw [same.outIndexSpatial, same.elem .biasmem (by decide) (by decide)] at bias
    rw [biasEffect_elem_single bias, sum]
  · next disabled =>
    rw [biasEffect_disabled (same.cfg ▸ spatial) (same.cfg ▸ Bool.eq_false_of_not_eq_true disabled), sum]

theorem execOn_fwds (ready : s.phase = .ready) (spatial : s.cfg.spatial = true) :
    execOn .fwds s = .next (fwdsEffect s) :=
  (((ChecksLeft.start (by rw [ready]; decide) rfl).ready ready).next ((modeCheck_passes _ _).2 spatial)).effect
    nofun

end Spatial

/-- Settles O47: no slice adds anything there, so the output is the bias alone. -/
theorem paddingOnlyOutputIsBias : Obligations.PaddingOnlyOutputIsBias := by
  intro s t n ch oh ow inv ready spatial ht hn hch hoh how padding
  have nothing : s.tapProducts n ch oh ow = fun _ => [] := funext fun j => tapValues_padding _ j padding
  have output := elem_fwdsEffect (inv.ready ready) reference_valid spatial hn hch hoh how
  rw [exec_eq_execOn, execOn_fwds ready spatial] at ht
  cases ht
  rw [State.Of.spatialOutput, State.Of.spatialSum, nothing, List.flatMap_eq_nil_iff.2 fun _ _ => rfl] at output
  exact output

end Sys2Proof.Machine

/-! The obligations about the forward commands (spec/44_forward.md).

`FWDL` and `FWDS` have the same two checks (`mode_command`). What they leave in an output is `elem_fwdlEffect` and
`elem_fwdsEffect`; what is new for O43 and O44 is that the tag is clear (`foldl_tag_empty`) and that nothing past
`OUT_EXTENT` is touched (`elem_foldl_kept`).

A sequence of commands leaves the fold of their effects where each of its parts passes its checks (`execAll_flatMap`,
`execAll_forward`). In another order of the rows or images, an output receives the values of the pairs of its own row or
image alone, in the order of the sequence (`elem_foldl_pairs`); that order is the ascending one (`SliceOrder`). -/

namespace Sys2Proof.Machine

variable {α : Type} {p : Params α}

/-! ### The illegal words and the checks (R94, R190, R191) -/

/-- R94 for format `Z`: the only legal word of the opcode is the command's own. -/
theorem decode_formatZ_nonzeroField {c : Word} {i : Instr} (row : decode c = formatZ c i) (other : c ≠ encode i) :
    decode c = .error .nonzeroField := by
  rw [row]
  exact if_neg fun zero => other (encode_of_decode (row.trans (if_pos zero))).symm

section Checks

variable {i : Instr} {s : State.Of p} {spatial : Bool}

/-- A command that needs the phase `READY` and a mode. -/
theorem mode_command (checks : commandChecks i s = [readyCheck s, modeCheck s spatial]) (notReset : i ≠ .reset) :
    (s.phase ≠ .fault → s.phase ≠ .ready → execOn i s = .next (s.faulted 0x20 0 (encode i))) ∧
    (s.phase = .ready → s.cfg.spatial = !spatial → execOn i s = .next (s.faulted 0x20 1 (encode i))) ∧
    (s.phase = .ready → s.cfg.spatial = spatial → execOn i s = .next (commandEffect i s)) := by
  have inReady (ready : s.phase = .ready) : ChecksLeft i s [modeCheck s spatial] :=
    (ChecksLeft.start (by rw [ready]; decide) checks).ready ready
  refine ⟨fun active => (ChecksLeft.start active checks).unready, fun ready other => ?_, fun ready mode => ?_⟩
  · exact (inReady ready).raises (by simp [modeCheck, other]) (show 1 < 2 ^ 32 by decide)
  · exact ((inReady ready).next ((modeCheck_passes _ _).2 mode)).effect notReset

/-- R194 for a command with these two checks and no effect on anything but `OUTMEM` and the lookup cache. -/
theorem mode_command_allOrNothing (checks : commandChecks i s = [readyCheck s, modeCheck s spatial])
    (notReset : i ≠ .reset) (same : SameInputs s (commandEffect i s)) (active : s.phase ≠ .fault) :
    ∃ t, execOn i s = .next t ∧
      ((∃ info, (info = 0 ∨ info = 1) ∧ t = s.faulted 0x20 info (encode i)) ∨
       (s.phase = .ready ∧ SameInputs s t)) := by
  obtain ⟨phase, mode, effect⟩ := mode_command checks notReset
  by_cases ready : s.phase = .ready
  · by_cases needed : s.cfg.spatial = spatial
    · exact ⟨_, effect ready needed, .inr ⟨ready, same⟩⟩
    · exact ⟨_, mode ready (Bool.eq_not_of_ne needed), .inl ⟨1, .inr rfl, rfl⟩⟩
  · exact ⟨_, phase active ready, .inl ⟨0, .inl rfl, rfl⟩⟩

end Checks

/-- Settles O48: both forward commands have the two checks and keep their inputs. -/
theorem forwardIsAllOrNothing : Obligations.ForwardIsAllOrNothing := by
  intro s i forward active
  rw [exec_eq_execOn]
  rcases forward with rfl | rfl
  · exact mode_command_allOrNothing rfl nofun (SameInputs.fwdl s) active
  · exact mode_command_allOrNothing rfl nofun (SameInputs.fwds s) active

/-! ### What a forward command leaves alone (R190, R191) -/

theorem State.Of.Ready.range_slices_ne_nil {s : State.Of p} (h : s.Ready) (hp : p.Valid) :
    List.range s.derived.numSlices.toNat ≠ [] := by
  rw [Ne, List.range_eq_nil, h.numSlices hp]
  exact (slices_pos h.passed).ne'

theorem State.Of.Ready.range_batch_ne_nil {s : State.Of p} (h : s.Ready) : List.range s.cfg.batch.toNat ≠ [] :=
  List.range_eq_nil.not.2 h.passed.batch.ne'

section Folds

variable {β : Type} {s t : State.Of p} {f : State.Of p → β → State.Of p} {l : List β}

/-- The tag is clear after parts of which each leaves it so, if there is one. -/
theorem foldl_tag_empty (keeps : ∀ t a, SameInputs t (f t a))
    (each : ∀ t a, SameInputs s t → (f t a).lut = LutTag.empty) (nonempty : l ≠ []) (same : SameInputs s t) :
    (l.foldl f t).lut = LutTag.empty := by
  rw [← List.dropLast_append_getLast nonempty, List.foldl_append]
  exact each _ _ (same.trans (SameInputs.foldl f keeps _ t))

/-- An element that no part changes is as it was. -/
theorem elem_foldl_kept (keeps : ∀ t a, SameInputs t (f t a)) {e : Nat}
    (each : ∀ a ∈ l, ∀ t, SameInputs s t → (f t a).elem .outmem e = t.elem .outmem e) (same : SameInputs s t) :
    (l.foldl f t).elem .outmem e = t.elem .outmem e := by
  induction l generalizing t with
  | nil => rfl
  | cons a l ih =>
    rw [List.foldl_cons, ih (fun b hb => each b (List.mem_cons_of_mem a hb)) (same.trans (keeps t a)),
      each a List.mem_cons_self t same]

end Folds

section Frame

variable {s t : State.Of p}

theorem SameInputs.eq_of_tag {tag : LutTag} (same : SameInputs s t) (cleared : t.lut = tag) :
    t = { s with outmem := t.outmem, lut := tag, lutmem := t.lutmem } := cleared ▸ same

theorem afterSlices_tag (h : s.Ready) (hp : p.Valid) :
    (afterSlices s s.derived.numSlices.toNat).lut = LutTag.empty :=
  foldl_tag_empty sameInputs_linearSlice (fun _ _ _ => rfl) (h.range_slices_ne_nil hp) (sameInputs_zero s)

theorem afterImages_tag (h : s.Ready) (hp : p.Valid) : (afterImages s).lut = LutTag.empty := by
  refine foldl_tag_empty sameInputs_spatialImage (fun t n same => ?_) h.range_batch_ne_nil (sameInputs_zero s)
  rw [spatialImage, same.derived]
  exact foldl_tag_empty (sameInputs_spatialSlice n) (fun _ _ _ => rfl) (h.range_slices_ne_nil hp) same

theorem elem_zeroEffect_past {e : Nat} (past : s.derived.outExtent.toNat ≤ e) :
    (zeroEffect s).elem .outmem e = s.elem .outmem e := (elem_zeroEffect s e).trans (if_neg past.not_gt)

theorem elem_spatialSlice_past (h : s.Ready) (hp : p.Valid) (spatial : s.cfg.spatial = true) (same : SameInputs s t)
    {n : Nat} (hn : n < s.cfg.batch.toNat) (j : Nat) {e : Nat} (past : s.derived.outExtent.toNat ≤ e) :
    (spatialSlice n t j).elem .outmem e = t.elem .outmem e := by
  have loaded : SameInputs s (mulsEffect n j t) := same.trans rfl
  have image : (n + 1) * s.cfg.numOut.toNat * s.derived.outH.toNat * s.derived.outW.toNat ≤ e := by
    refine le_trans ?_ (h.outExtent_spatial hp spatial ▸ past)
    gcongr
    exact hn
  rw [← loaded.cfg, ← loaded.derived] at image
  exact gather_elem_untouched (addedTo_gacsContributions_outside _ n j (.inr image))

theorem elem_afterImages_past (h : s.Ready) (hp : p.Valid) (spatial : s.cfg.spatial = true) {e : Nat}
    (past : s.derived.outExtent.toNat ≤ e) : (afterImages s).elem .outmem e = s.elem .outmem e := by
  refine (elem_foldl_kept sameInputs_spatialImage (fun n hn t same => ?_) (sameInputs_zero s)).trans
    (elem_zeroEffect_past past)
  exact elem_foldl_kept (sameInputs_spatialSlice n)
    (fun j _ t same => elem_spatialSlice_past h hp spatial same (List.mem_range.1 hn) j past) same

theorem elem_biasEffect_past_spatial (h : s.Ready) (hp : p.Valid) (spatial : s.cfg.spatial = true) {e : Nat}
    (past : s.derived.outExtent.toNat ≤ e) : (biasEffect s).elem .outmem e = s.elem .outmem e := by
  cases enabled : s.cfg.biasEn with
  | true =>
    rw [h.outExtent_spatial hp spatial, Nat.mul_assoc] at past
    exact biasEffect_elem_untouched (addedTo_biasContributions_spatial_past spatial enabled past)
  | false => rw [biasEffect_disabled spatial enabled]

theorem elem_fwdsEffect_past (h : s.Ready) (hp : p.Valid) (spatial : s.cfg.spatial = true) {e : Nat}
    (past : s.derived.outExtent.toNat ≤ e) : (fwdsEffect s).elem .outmem e = s.elem .outmem e := by
  have same := sameInputs_afterImages s
  rw [fwdsEffect_eq, elem_biasEffect_past_spatial (same.keeps_ready h) hp (same.cfg ▸ spatial) (same.derived ▸ past),
    elem_afterImages_past h hp spatial past]

end Frame

/-- Settles O43: the illegal words, the two checks, then every output with its frame. -/
theorem fwdlComputesLinearLayer : Obligations.FwdlComputesLinearLayer := by
  intro s c NO K M
  refine ⟨fun w opcode other => execWord_illegal exec
    (decode_formatZ_nonzeroField (i := .fwdl) (by rw [decode, opcode]; rfl) other), ?_⟩
  simp only [exec_eq_execOn]
  obtain ⟨phase, mode, effect⟩ := mode_command (i := .fwdl) (s := s) rfl nofun
  refine ⟨phase, mode, fun inv ready linear => ?_⟩
  have h := inv.ready ready
  exact ⟨_, effect ready linear, (SameInputs.fwdl s).eq_of_tag (afterSlices_tag h reference_valid),
    fun r l hr hl => elem_fwdlEffect h reference_valid linear hr hl,
    fun e => elem_fwdlEffect_past h reference_valid linear⟩

/-- Settles O44: the illegal words, the two checks, then every output with its frame. -/
theorem fwdsComputesConvolution : Obligations.FwdsComputesConvolution := by
  intro s c NO K M OH OW KH KW P
  refine ⟨fun w opcode other => execWord_illegal exec
    (decode_formatZ_nonzeroField (i := .fwds) (by rw [decode, opcode]; rfl) other), ?_⟩
  simp only [exec_eq_execOn]
  obtain ⟨phase, mode, effect⟩ := mode_command (i := .fwds) (s := s) rfl nofun
  refine ⟨phase, mode, fun inv ready spatial => ?_⟩
  have h := inv.ready ready
  exact ⟨_, effect ready spatial, (SameInputs.fwds s).eq_of_tag (afterImages_tag h reference_valid),
    fun n ch oh ow hn hch hoh how => elem_fwdsEffect h reference_valid spatial hn hch hoh how,
    fun e => elem_fwdsEffect_past h reference_valid spatial⟩

/-! ### Sequences of commands (R192, R193) -/

section Sequences

variable {s t u v : State} {cmds rest : List Instr}

theorem execAll_pair {i g : Instr} (multiplier : execOn i t = .next u) (gather : execOn g u = .next v) :
    execAll [i, g] t = .next v := by
  simp only [execAll, exec_eq_execOn, multiplier, gather]

theorem execAll_append (run : execAll cmds s = .next t) : execAll (cmds ++ rest) s = execAll rest t := by
  induction cmds generalizing s with
  | nil => cases run; rfl
  | cons i cmds ih =>
    rw [execAll] at run
    rw [List.cons_append, execAll]
    split at run
    · exact ih run
    · cases run
    · cases run

/-- Where the commands for each `a` leave `f · a` in a state with the inputs of `s`, all of them leave the fold. -/
theorem execAll_flatMap {β : Type} {f : State → β → State} {l : List β} {cmdsOf : β → List Instr}
    (keeps : ∀ t a, SameInputs t (f t a))
    (each : ∀ a ∈ l, ∀ t, SameInputs s t → execAll (cmdsOf a) t = .next (f t a)) (same : SameInputs s t) :
    execAll (l.flatMap cmdsOf) t = .next (l.foldl f t) := by
  induction l generalizing t with
  | nil => rfl
  | cons a l ih =>
    rw [List.flatMap_cons, execAll_append (each a List.mem_cons_self t same), List.foldl_cons]
    exact ih (fun b hb => each b (List.mem_cons_of_mem a hb)) (same.trans (keeps t a))

/-- `ZERO`, the multiplier and gather commands, then `BIAS`. -/
theorem execAll_forward (ready : s.phase = .ready) (run : execAll cmds (zeroEffect s) = .next t)
    (same : SameInputs s t) : execAll ([.zero] ++ cmds ++ [.bias]) s = .next (biasEffect t) := by
  obtain ⟨-, zero⟩ := ready_command (i := .zero) (s := s) rfl nofun
  obtain ⟨-, bias⟩ := ready_command (i := .bias) (s := t) rfl nofun
  have cleared : execAll [.zero] s = .next (zeroEffect s) := by
    simp only [execAll, exec_eq_execOn, zero ready, commandEffect]
  rw [execAll_append ((execAll_append cleared).trans run), execAll, exec_eq_execOn, bias (same.phase.trans ready)]
  rfl

/-- A gather finds the table of the multiplier command before it. -/
theorem execAll_mulb_gacb (ready : t.phase = .ready) (linear : t.cfg.spatial = false) {j : BitVec 12}
    (hj : j.toNat < t.derived.numSlices.toNat) :
    execAll [.mulb j, .gacb j] t = .next (linearSlice t j.toNat) := by
  obtain ⟨-, -, -, multiplier⟩ := slice_command (i := .mulb j) (s := t) rfl
  obtain ⟨-, -, -, gather⟩ := slice_command (i := .gacb j) (s := mulbEffect j.toNat t) rfl
  exact execAll_pair ((multiplier ready linear hj).effect nofun)
    ((gather ready linear hj).rightTag nofun (congrArg State.Of.lut (mulbEffect_eq j t)))

/-- One pair of R192: `MULV r, j`, then `GACV r, j`. -/
def rowSlice (t : State.Of p) (q : Nat × Nat) : State.Of p := gacvEffect q.1 q.2 (mulvEffect q.1 q.2 t)

theorem sameInputs_rowSlice (t : State.Of p) (q : Nat × Nat) : SameInputs t (rowSlice t q) := rfl

theorem execAll_mulv_gacv (ready : t.phase = .ready) (linear : t.cfg.spatial = false) {r j : BitVec 12}
    (hr : r.toNat < t.cfg.batch.toNat) (hj : j.toNat < t.derived.numSlices.toNat) :
    execAll [.mulv r j, .gacv r j] t = .next (rowSlice t (r.toNat, j.toNat)) := by
  obtain ⟨-, -, -, multiplier⟩ := slice_command (i := .mulv r j) (s := t) rfl
  obtain ⟨-, -, -, gather⟩ := slice_command (i := .gacv r j) (s := mulvEffect r.toNat j.toNat t) rfl
  exact execAll_pair (((multiplier ready linear hj).next ((rowCheck_passes t r).2 hr)).effect nofun)
    (((gather ready linear hj).next ((rowCheck_passes _ r).2 hr)).rightTag nofun
      (congrArg State.Of.lut (mulvEffect_eq r j t)))

/-- One pair of R193: `MULS n, j`, then `GACS n, j`. -/
def imageSlice (t : State.Of p) (q : Nat × Nat) : State.Of p := spatialSlice q.1 t q.2

theorem sameInputs_imageSlice (t : State.Of p) (q : Nat × Nat) : SameInputs t (imageSlice t q) := rfl

theorem execAll_muls_gacs (ready : t.phase = .ready) (spatial : t.cfg.spatial = true) {n j : BitVec 12}
    (hn : n.toNat < t.cfg.batch.toNat) (hj : j.toNat < t.derived.numSlices.toNat) :
    execAll [.muls n j, .gacs n j] t = .next (imageSlice t (n.toNat, j.toNat)) := by
  obtain ⟨-, -, -, multiplier⟩ := slice_command (i := .muls n j) (s := t) rfl
  obtain ⟨-, -, -, gather⟩ := slice_command (i := .gacs n j) (s := mulsEffect n.toNat j.toNat t) rfl
  exact execAll_pair (((multiplier ready spatial hj).next ((rowCheck_passes t n).2 hn)).effect nofun)
    (((gather ready spatial hj).next ((rowCheck_passes _ n).2 hn)).rightTag nofun
      (congrArg State.Of.lut (mulsEffect_eq n j t)))

/-- Every slice number has a 12-bit field (R136 row 10). -/
theorem State.Of.Ready.toNat_slice {s : State.Of p} (h : s.Ready) (hp : p.Valid) {j : Nat}
    (hj : j < s.derived.numSlices.toNat) : (BitVec.ofNat 12 j).toNat = j :=
  Nat.mod_eq_of_lt (hj.trans_le (h.numSlices hp ▸ h.passed.slicesCap))

/-- So has every batch row and every image. -/
theorem State.Of.Ready.toNat_row {s : State.Of p} (h : s.Ready) {r : Nat} (hr : r < s.cfg.batch.toNat) :
    (BitVec.ofNat 12 r).toNat = r :=
  Nat.mod_eq_of_lt (hr.trans_le h.passed.batchCap)

theorem execAll_linearSlice (h : s.Ready) (ready : s.phase = .ready) (linear : s.cfg.spatial = false)
    (same : SameInputs s t) {j : Nat} (hj : j < s.derived.numSlices.toNat) :
    execAll [.mulb (BitVec.ofNat 12 j), .gacb (BitVec.ofNat 12 j)] t = .next (linearSlice t j) := by
  have word := h.toNat_slice reference_valid hj
  have run := execAll_mulb_gacb (t := t) (j := BitVec.ofNat 12 j) (same.phase ▸ ready) (same.cfg ▸ linear)
    (by rwa [same.derived, word])
  rwa [word] at run

theorem execAll_rowSlice (h : s.Ready) (ready : s.phase = .ready) (linear : s.cfg.spatial = false)
    (same : SameInputs s t) {r j : Nat} (hr : r < s.cfg.batch.toNat) (hj : j < s.derived.numSlices.toNat) :
    execAll [.mulv (BitVec.ofNat 12 r) (BitVec.ofNat 12 j), .gacv (BitVec.ofNat 12 r) (BitVec.ofNat 12 j)] t =
      .next (rowSlice t (r, j)) := by
  have row := h.toNat_row hr
  have slice := h.toNat_slice reference_valid hj
  have run := execAll_mulv_gacv (t := t) (r := BitVec.ofNat 12 r) (j := BitVec.ofNat 12 j) (same.phase ▸ ready)
    (same.cfg ▸ linear) (by rwa [same.cfg, row]) (by rwa [same.derived, slice])
  rwa [row, slice] at run

theorem execAll_imageSlice (h : s.Ready) (ready : s.phase = .ready) (spatial : s.cfg.spatial = true)
    (same : SameInputs s t) {n j : Nat} (hn : n < s.cfg.batch.toNat) (hj : j < s.derived.numSlices.toNat) :
    execAll [.muls (BitVec.ofNat 12 n) (BitVec.ofNat 12 j), .gacs (BitVec.ofNat 12 n) (BitVec.ofNat 12 j)] t =
      .next (imageSlice t (n, j)) := by
  have image := h.toNat_row hn
  have slice := h.toNat_slice reference_valid hj
  have run := execAll_muls_gacs (t := t) (n := BitVec.ofNat 12 n) (j := BitVec.ofNat 12 j) (same.phase ▸ ready)
    (same.cfg ▸ spatial) (by rwa [same.cfg, image]) (by rwa [same.derived, slice])
  rwa [image, slice] at run

theorem execAll_spatialImage (h : s.Ready) (ready : s.phase = .ready) (spatial : s.cfg.spatial = true)
    (same : SameInputs s t) {n : Nat} (hn : n < s.cfg.batch.toNat) :
    execAll ((List.range s.derived.numSlices.toNat).flatMap fun j =>
      [.muls (BitVec.ofNat 12 n) (BitVec.ofNat 12 j), .gacs (BitVec.ofNat 12 n) (BitVec.ofNat 12 j)]) t =
      .next (spatialImage t n) := by
  rw [spatialImage, same.derived]
  exact execAll_flatMap (sameInputs_spatialSlice n)
    (fun j hj t same => execAll_imageSlice h ready spatial same hn (List.mem_range.1 hj)) same

end Sequences

/-! ### Pairs in another order (R192, R193) -/

/-- Pairs of a row (or image) of the batch and a slice, in an order in which each row has every slice once, in
ascending `j`. -/
structure SliceOrder (s : State.Of p) (pairs : List (Nat × Nat)) : Prop where
  row : ∀ q ∈ pairs, q.1 < s.cfg.batch.toNat
  ascending : ∀ r, r < s.cfg.batch.toNat →
    (pairs.filter fun q => q.1 == r).map Prod.snd = List.range s.derived.numSlices.toNat

section Order

variable {s t : State.Of p} {pairs : List (Nat × Nat)} {f : State.Of p → Nat × Nat → State.Of p}

theorem SliceOrder.slice (order : SliceOrder s pairs) {q : Nat × Nat} (hq : q ∈ pairs) :
    q.2 < s.derived.numSlices.toNat := by
  have own : q ∈ pairs.filter fun q' => q'.1 == q.1 := List.mem_filter.2 ⟨hq, beq_self_eq_true _⟩
  exact List.mem_range.1 (order.ascending q.1 (order.row q hq) ▸ List.mem_map_of_mem own)

theorem SliceOrder.ne_nil (order : SliceOrder s pairs) (h : s.Ready) (hp : p.Valid) : pairs ≠ [] := by
  rintro rfl
  exact h.range_slices_ne_nil hp (order.ascending 0 h.passed.batch).symm

/-- Where pairs of other rows do not change an element, it receives what the pairs of row `r` add, in their order. -/
theorem elem_foldl_pairs (keeps : ∀ t q, SameInputs t (f t q)) {e r : Nat} {added : Nat → List α}
    (own : ∀ q ∈ pairs, q.1 = r → ∀ t, SameInputs s t →
      (f t q).elem .outmem e = (added q.2).foldl p.real.radd (t.elem .outmem e))
    (other : ∀ q ∈ pairs, q.1 ≠ r → ∀ t, SameInputs s t → (f t q).elem .outmem e = t.elem .outmem e)
    (same : SameInputs s t) : (pairs.foldl f t).elem .outmem e =
      (((pairs.filter fun q => q.1 == r).map Prod.snd).flatMap added).foldl p.real.radd (t.elem .outmem e) := by
  induction pairs generalizing t with
  | nil => rfl
  | cons q pairs ih =>
    rw [List.foldl_cons, ih (fun q' hq => own q' (List.mem_cons_of_mem q hq))
      (fun q' hq => other q' (List.mem_cons_of_mem q hq)) (same.trans (keeps t q))]
    by_cases hr : q.1 = r
    · rw [own q List.mem_cons_self hr t same, List.filter_cons, if_pos (beq_iff_eq.2 hr), List.map_cons,
        List.flatMap_cons, List.foldl_append]
    · rw [other q List.mem_cons_self hr t same, List.filter_cons, if_neg (mt beq_iff_eq.1 hr)]

/-- In such an order an element of row `r` receives what the slices add in ascending `j`. -/
theorem SliceOrder.elem_foldl (order : SliceOrder s pairs) (keeps : ∀ t q, SameInputs t (f t q)) {e r : Nat}
    (hr : r < s.cfg.batch.toNat) {added : Nat → List α}
    (own : ∀ j, j < s.derived.numSlices.toNat → ∀ t, SameInputs s t →
      (f t (r, j)).elem .outmem e = (added j).foldl p.real.radd (t.elem .outmem e))
    (other : ∀ m j, m ≠ r → ∀ t, SameInputs s t → (f t (m, j)).elem .outmem e = t.elem .outmem e)
    (same : SameInputs s t) : (pairs.foldl f t).elem .outmem e =
      ((List.range s.derived.numSlices.toNat).flatMap added).foldl p.real.radd (t.elem .outmem e) := by
  rw [← order.ascending r hr]
  refine elem_foldl_pairs keeps (fun q hq row t same => ?_) (fun q _ => other q.1 q.2) same
  subst row
  exact own q.2 (order.slice hq) t same

theorem exists_rowColumn {e n w : Nat} (h : e < n * w) : ∃ a b, a < n ∧ b < w ∧ e = a * w + b :=
  ⟨e / w, e % w, Nat.div_lt_of_lt_mul (Nat.mul_comm n w ▸ h),
    Nat.mod_lt e (Nat.pos_of_ne_zero fun zero => by simp [zero] at h), (Nat.div_add_mod' e w).symm⟩

/-- R75: every element below `OUT_EXTENT` is an output. -/
theorem State.Of.Ready.exists_outIndexLinear (h : s.Ready) (hp : p.Valid) (linear : s.cfg.spatial = false) {e : Nat}
    (inside : e < s.derived.outExtent.toNat) :
    ∃ r l, r < s.cfg.batch.toNat ∧ l < s.cfg.numOut.toNat ∧ e = s.cfg.outIndexLinear r l :=
  exists_rowColumn (h.outExtent_linear hp linear ▸ inside)

theorem State.Of.Ready.exists_outIndexSpatial (h : s.Ready) (hp : p.Valid) (spatial : s.cfg.spatial = true) {e : Nat}
    (inside : e < s.derived.outExtent.toNat) : ∃ n ch oh ow, n < s.cfg.batch.toNat ∧ ch < s.cfg.numOut.toNat ∧
      oh < s.derived.outH.toNat ∧ ow < s.derived.outW.toNat ∧ e = s.outIndexSpatial n ch oh ow := by
  obtain ⟨row, ow, hrow, how, rfl⟩ := exists_rowColumn (h.outExtent_spatial hp spatial ▸ inside)
  obtain ⟨channel, oh, hchannel, hoh, rfl⟩ := exists_rowColumn hrow
  obtain ⟨n, ch, hn, hch, rfl⟩ := exists_rowColumn hchannel
  exact ⟨n, ch, oh, ow, hn, hch, hoh, how, rfl⟩

/-- The bias leaves the same where the inputs, the tag and the elements of `OUTMEM` are the same. -/
theorem biasEffect_agree {u : State.Of p} (sameT : SameInputs s t) (sameU : SameInputs s u) (tag : u.lut = t.lut)
    (agree : ∀ e, u.elem .outmem e = t.elem .outmem e) :
    biasEffect u = { biasEffect t with outmem := (biasEffect u).outmem, lutmem := (biasEffect u).lutmem } ∧
    ∀ e, (biasEffect u).elem .outmem e = (biasEffect t).elem .outmem e := by
  have inputs : u = { t with outmem := u.outmem, lutmem := u.lutmem } := by
    rw [sameU, tag, sameT]
  refine ⟨by rw [inputs]; rfl, fun e => ?_⟩
  have added : u.biasContributions = t.biasContributions := by rw [inputs]; rfl
  rw [elem_biasEffect, elem_biasEffect, added, agree]

/-! ### Rows (R192) -/

theorem addedTo_gacvContributions_otherRow (s : State.Of p) {r m l : Nat} (other : m ≠ r) (j : Nat)
    (hl : l < s.cfg.numOut.toNat) : addedTo (s.cfg.outIndexLinear r l) (s.gacvContributions m j) = [] := by
  refine addedTo_none fun c hc index => ?_
  simp only [State.Of.gacvContributions, List.mem_map, List.mem_range] at hc
  obtain ⟨l', hl', rfl⟩ := hc
  exact other (rowColumn_inj index hl' hl).1

theorem elem_rowSlice (h : s.Ready) (hp : p.Valid) (linear : s.cfg.spatial = false) (same : SameInputs s t)
    {r l j : Nat} (hl : l < s.cfg.numOut.toNat) (hj : j < s.derived.numSlices.toNat) :
    (rowSlice t (r, j)).elem .outmem (s.cfg.outIndexLinear r l) =
      p.real.radd (t.elem .outmem (s.cfg.outIndexLinear r l))
        (s.dot j (s.code (s.cfg.decIndexLinear j l)) (s.segmentLinear r j)) := by
  have below : s.code (s.cfg.decIndexLinear j l) < s.cfg.k.toNat := h.code_lt hp (h.decIndexLinear_lt hp linear hj hl)
  have loaded : SameInputs s (mulvEffect r j t) := same.trans rfl
  have added := addedTo_gacvContributions (mulvEffect r j t) r j (loaded.cfg ▸ hl)
  rw [loaded.cfg, loaded.code, elem_mulvEffect t r j (same.cfg ▸ below), same.dot_segmentLinear] at added
  exact gather_elem_single added

theorem elem_rowSlice_otherRow (same : SameInputs s t) {r m l : Nat} (other : m ≠ r) (j : Nat)
    (hl : l < s.cfg.numOut.toNat) :
    (rowSlice t (m, j)).elem .outmem (s.cfg.outIndexLinear r l) = t.elem .outmem (s.cfg.outIndexLinear r l) := by
  have loaded : SameInputs s (mulvEffect m j t) := same.trans rfl
  have added := addedTo_gacvContributions_otherRow (mulvEffect m j t) other j (loaded.cfg ▸ hl)
  rw [loaded.cfg] at added
  exact gather_elem_untouched added

theorem elem_rowSlice_past (h : s.Ready) (hp : p.Valid) (linear : s.cfg.spatial = false) (same : SameInputs s t)
    {q : Nat × Nat} (hq : q.1 < s.cfg.batch.toNat) {e : Nat} (past : s.derived.outExtent.toNat ≤ e) :
    (rowSlice t q).elem .outmem e = t.elem .outmem e := by
  have loaded : SameInputs s (mulvEffect q.1 q.2 t) := same.trans rfl
  have row : q.1 * s.cfg.numOut.toNat + s.cfg.numOut.toNat ≤ e := by
    rw [h.outExtent_linear hp linear] at past
    rw [← Nat.succ_mul]
    exact (Nat.mul_le_mul_right _ hq).trans past
  rw [← loaded.cfg] at row
  exact gather_elem_untouched (addedTo_gacvContributions_outside _ q.1 q.2 (.inr row))

/-- The slices of an output of R190 as a list of one product each. -/
theorem linearSum_eq_foldl (s : State.Of p) (r l n : Nat) : s.linearSum r l n =
    ((List.range n).flatMap fun j => [s.dot j (s.code (s.cfg.decIndexLinear j l)) (s.segmentLinear r j)]).foldl
      p.real.radd p.real.rzero := by
  rw [← List.map_eq_flatMap, List.foldl_map, State.Of.linearSum]

/-- The rows may be taken in any order: before the bias every element of `OUTMEM` is what `FWDL` has there. -/
theorem SliceOrder.elem_rowSlices (h : s.Ready) (hp : p.Valid) (linear : s.cfg.spatial = false)
    (order : SliceOrder s pairs) (e : Nat) : (pairs.foldl rowSlice (zeroEffect s)).elem .outmem e =
      (afterSlices s s.derived.numSlices.toNat).elem .outmem e := by
  rcases Nat.lt_or_ge e s.derived.outExtent.toNat with inside | past
  · have zeroed := (elem_zeroEffect s e).trans (if_pos inside)
    obtain ⟨r, l, hr, hl, rfl⟩ := h.exists_outIndexLinear hp linear inside
    rw [elem_afterSlices h hp linear hr hl le_rfl, linearSum_eq_foldl, ← zeroed]
    exact order.elem_foldl sameInputs_rowSlice hr (fun j hj t same => elem_rowSlice h hp linear same hl hj)
      (fun m j other t same => elem_rowSlice_otherRow same other j hl) (sameInputs_zero s)
  · rw [elem_foldl_kept sameInputs_rowSlice
      (fun q hq t same => elem_rowSlice_past h hp linear same (order.row q hq) past) (sameInputs_zero s),
      elem_zeroEffect_past past, elem_afterSlices_past h hp linear past]

/-! ### Images (R193) -/

/-- The images may be taken in any order: before the bias every element of `OUTMEM` is what `FWDS` has there. -/
theorem SliceOrder.elem_imageSlices (h : s.Ready) (hp : p.Valid) (spatial : s.cfg.spatial = true)
    (order : SliceOrder s pairs) (e : Nat) : (pairs.foldl imageSlice (zeroEffect s)).elem .outmem e =
      (afterImages s).elem .outmem e := by
  rcases Nat.lt_or_ge e s.derived.outExtent.toNat with inside | past
  · have zeroed := (elem_zeroEffect s e).trans (if_pos inside)
    obtain ⟨n, ch, oh, ow, hn, hch, hoh, how, rfl⟩ := h.exists_outIndexSpatial hp spatial inside
    rw [elem_afterImages h hp spatial hn hch hoh how, State.Of.spatialSum, ← zeroed]
    exact order.elem_foldl sameInputs_imageSlice hn
      (fun j hj t same => elem_spatialSlice h hp spatial same hch hoh how hj)
      (fun m j other t same => elem_spatialSlice_otherImage other same j hch hoh how) (sameInputs_zero s)
  · rw [elem_foldl_kept sameInputs_imageSlice
      (fun q hq t same => elem_spatialSlice_past h hp spatial same (order.row q hq) q.2 past) (sameInputs_zero s),
      elem_zeroEffect_past past, elem_afterImages_past h hp spatial past]

end Order

/-- R192, R193: pairs in any order between `ZERO` and `BIAS` end like the slices that leave `t`, where each pair clears
the tag and the elements of `OUTMEM` agree. -/
theorem SliceOrder.execAll_agrees {s t : State} {pairs : List (Nat × Nat)} (order : SliceOrder s pairs) (h : s.Ready)
    (ready : s.phase = .ready) {f : State → Nat × Nat → State} {cmdsOf : Nat × Nat → List Instr}
    (keeps : ∀ t q, SameInputs t (f t q)) (clears : ∀ t q, (f t q).lut = LutTag.empty)
    (runs : ∀ q ∈ pairs, ∀ t, SameInputs s t → execAll (cmdsOf q) t = .next (f t q))
    (same : SameInputs s t) (cleared : t.lut = LutTag.empty)
    (agree : ∀ e, (pairs.foldl f (zeroEffect s)).elem .outmem e = t.elem .outmem e) :
    ∃ u, execAll ([.zero] ++ pairs.flatMap cmdsOf ++ [.bias]) s = .next u ∧
      u = { biasEffect t with outmem := u.outmem, lutmem := u.lutmem } ∧
      ∀ e, u.elem .outmem e = (biasEffect t).elem .outmem e := by
  have zeroed := sameInputs_zero s
  have same' := zeroed.trans (SameInputs.foldl f keeps pairs _)
  have tag := foldl_tag_empty keeps (fun t q _ => clears t q) (order.ne_nil h reference_valid) zeroed
  exact ⟨_, execAll_forward ready (execAll_flatMap keeps runs zeroed) same',
    biasEffect_agree same same' (tag.trans cleared.symm) agree⟩

/-- Settles O45: each command passes its checks and has its effect; an output receives its own row's slices alone. -/
theorem fwdlEqualsCommandSequence : Obligations.FwdlEqualsCommandSequence := by
  intro s inv ready linear
  have h := inv.ready ready
  have forward : exec .fwdl s = .next (fwdlEffect s) := (exec_eq_execOn _ s).trans (execOn_fwdl ready linear)
  have same := sameInputs_afterSlices s s.derived.numSlices.toNat
  refine ⟨?_, fun pairs rows ascending => ?_⟩
  · have slices := execAll_flatMap sameInputs_linearSlice
      (fun j hj t same => execAll_linearSlice h ready linear same (List.mem_range.1 hj)) (sameInputs_zero s)
    exact forward.trans (execAll_forward ready slices same).symm
  · have order : SliceOrder s pairs := ⟨rows, ascending⟩
    obtain ⟨u, sequence, agrees⟩ := order.execAll_agrees h ready sameInputs_rowSlice (fun _ _ => rfl)
      (fun q hq t same => execAll_rowSlice h ready linear same (order.row q hq) (order.slice hq)) same
      (afterSlices_tag h reference_valid) (order.elem_rowSlices h reference_valid linear)
    exact ⟨_, u, forward, sequence, agrees⟩

/-- Settles O46: as O45; an output receives its own image's slices alone. -/
theorem fwdsEqualsCommandSequence : Obligations.FwdsEqualsCommandSequence := by
  intro s inv ready spatial
  have h := inv.ready ready
  have forward : exec .fwds s = .next (fwdsEffect s) := (exec_eq_execOn _ s).trans (execOn_fwds ready spatial)
  have same := sameInputs_afterImages s
  refine ⟨?_, fun pairs images ascending => ?_⟩
  · have slices := execAll_flatMap sameInputs_spatialImage
      (fun n hn t same => execAll_spatialImage h ready spatial same (List.mem_range.1 hn)) (sameInputs_zero s)
    exact forward.trans (execAll_forward ready slices same).symm
  · have order : SliceOrder s pairs := ⟨images, ascending⟩
    obtain ⟨u, sequence, agrees⟩ := order.execAll_agrees h ready sameInputs_imageSlice (fun _ _ => rfl)
      (fun q hq t same => execAll_imageSlice h ready spatial same (order.row q hq) (order.slice hq)) same
      (afterImages_tag h reference_valid) (order.elem_imageSlices h reference_valid spatial)
    exact ⟨_, u, forward, sequence, agrees⟩

end Sys2Proof.Machine

/-! The obligation about faults (spec/60_exceptions.md).

A command word leads to a fault in two ways: it is illegal (`execWord_illegal`), or it is the word of a command one of
whose checks fails (`execOn_cases`). Each is `State.Of.faulted` with a code of R200. There is no third way: a command
whose checks have passed does not end in `FAULT` (`commandEffect_active`). -/

namespace Sys2Proof.Machine

variable {α : Type} {p : Params α}

/-- R24: the effect of a command never enters `FAULT`; only a failing check does. -/
theorem commandEffect_active (i : Instr) {s : State.Of p} (active : s.phase ≠ .fault) :
    (commandEffect i s).phase ≠ .fault := by
  rcases lifecycle_or_computes i with rfl | rfl | ⟨slot, rfl⟩ | rfl | computes
  · exact active
  · exact nofun
  · rw [commandEffect]
    rcases bindEffect_cases slot s with eq | ⟨sl, ⟨eq, -⟩ | ⟨eq, -⟩⟩ <;> rw [eq]
    · exact active
    · rwa [setBound_phase]
    · exact nofun
  · rw [commandEffect, reshapeEffect]
    split
    · exact active
    · exact nofun
  · rwa [(computes.sameInputs s).phase]

/-- R212 for a command: it enters `FAULT` only by a check that fails, and then four fields change. -/
theorem execOn_enters_fault {i : Instr} {s t : State.Of p} (active : s.phase ≠ .fault) (run : execOn i s = .next t)
    (fault : t.phase = .fault) : ∃ (e : ErrCode) (info : Nat), t = s.faulted e.code info (encode i) := by
  rcases execOn_cases run with ⟨-, rfl⟩ | ⟨faulted, -⟩ | ⟨-, -, k, -, rfl⟩ | ⟨-, -, -, rfl⟩
  · exact absurd fault (commandEffect_active .reset active)
  · exact absurd faulted active
  · exact ⟨k.err, _, raiseFault_faulted ..⟩
  · exact absurd fault (commandEffect_active i active)

/-- R212 for a command word, legal or not: `ERRCMD` is the word itself, as a word that is a command encodes it. -/
theorem execWord_enters_fault {c : Word} {s t : State.Of p} (active : s.phase ≠ .fault)
    (run : execWord execOn c s = .next t) (fault : t.phase = .fault) :
    ∃ (e : ErrCode) (info : Nat), t = s.faulted e.code info c := by
  cases decoded : decode c with
  | ok i =>
    rw [execWord_decoded decoded] at run
    rw [← encode_of_decode decoded]
    exact execOn_enters_fault active run fault
  | error e =>
    rw [execWord_illegal execOn decoded active] at run
    cases run
    exact ⟨.illegalCmd, e.info, rfl⟩

/-- The values of `ERR` are those of the table of R200. -/
theorem ErrCode.code_mem (e : ErrCode) : e.code ∈
    [0x01, 0x02, 0x03, 0x04, 0x05, 0x10, 0x11, 0x12, 0x13, 0x14, 0x15, 0x16, 0x20, 0x21, 0x22] := by
  cases e <;> decide

/-- Settles O49: a word enters `FAULT` as an illegal word or by a failing check, each with a code of the table. -/
theorem faultsArePrecise : Obligations.FaultsArePrecise := by
  intro c s t active run fault
  rw [exec_eq_execOn_fun] at run
  obtain ⟨e, info, rfl⟩ := execWord_enters_fault active run fault
  exact ⟨e.code, info, rfl, e.code_mem⟩

end Sys2Proof.Machine

/-! The obligations about reset and about the hand-over of the table (spec/70_reset_and_hazards.md).

The table passes from a multiplier command to a gather through the tag. In `READY` the commands that keep it complete
without a write of the tag or of `LUTMEM`. A gather that completes has passed its tag check, and `State.Of.gather` drops
the table (`execOn_gather`). An accepted write to `INMEM` drops it in the same way, whatever the form of the request
(`serveNext_translated`). -/

namespace Sys2Proof.Machine

variable {α : Type} {p : Params α}

/-! ### Reset (R230) -/

/-- Settles O1: the registers are those of `readReg_powerOn`, and at reset no request is pending. -/
theorem resetLeavesEveryRegisterZero : Obligations.ResetLeavesEveryRegisterZero :=
  ⟨rfl, fun sl => by cases sl <;> rfl, rfl, fun n _ => readReg_powerOn n, rfl⟩

/-! ### The commands that keep the table, and those that use it (R241, R171) -/

/-- R241: the commands between a multiplication and its gather that leave the table in place. -/
theorem execOn_keeps_table {i : Instr} {s t : State.Of p} (keeper : i = .zero ∨ i = .bias ∨ i = .nop ∨ i = .reshape)
    (ready : s.phase = .ready) (run : execOn i s = .next t) : t.lut = s.lut ∧ t.lutmem = s.lutmem := by
  rcases keeper with rfl | rfl | rfl | rfl
  · cases ((ready_command (i := .zero) rfl nofun).2 ready).symm.trans run
    exact ⟨zeroEffect_lut s, zeroEffect_lutmem s⟩
  · cases ((ready_command (i := .bias) rfl nofun).2 ready).symm.trans run
    exact ⟨biasEffect_lut s, biasEffect_lutmem s⟩
  · cases (execOn_nop s).symm.trans run
    exact ⟨rfl, rfl⟩
  · cases (execOn_reshape_ready ready).symm.trans run
    exact ⟨rfl, rfl⟩

/-- A command that does not end in `FAULT` has passed its checks and done its effect (R98, R212). -/
theorem execOn_completed {i : Instr} {s t : State.Of p} (notReset : i ≠ .reset) (run : execOn i s = .next t)
    (active : t.phase ≠ .fault) : firstFailing (commandChecks i s) = none ∧ t = commandEffect i s := by
  rcases execOn_cases run with ⟨isReset, -⟩ | ⟨fault, rfl⟩ | ⟨-, -, k, -, rfl⟩ | ⟨-, -, passed, done⟩
  · exact absurd isReset notReset
  · exact absurd fault active
  · exact absurd (raiseFault_phase ..) active
  · exact ⟨passed, done⟩

/-- R171: a command with a tag check whose effect is a gather needs the table its tag names, and consumes it. -/
theorem execOn_gather {i : Instr} {s t : State.Of p} {kind : LutKind} {j r : BitVec 12} {contributions : List (Nat × α)}
    (check : tagCheck s kind j r ∈ commandChecks i s) (effect : commandEffect i s = s.gather contributions)
    (run : execOn i s = .next t) (active : t.phase ≠ .fault) : s.lut = ⟨true, kind, j, r⟩ ∧ t.lut = LutTag.empty := by
  have notReset : i ≠ .reset := by
    rintro rfl
    cases check
  obtain ⟨passed, rfl⟩ := execOn_completed notReset run active
  exact ⟨(tagCheck_passes s kind j r).1 (firstFailing_eq_none.1 passed _ check), by rw [effect, gather_lut]⟩

/-- R171 for the three gathers. -/
theorem execOn_gather_consumes {i : Instr} {s t : State.Of p}
    (gather : (∃ r j, i = .gacv r j) ∨ (∃ j, i = .gacb j) ∨ ∃ n j, i = .gacs n j) (run : execOn i s = .next t)
    (active : t.phase ≠ .fault) : s.lut.valid = true ∧ t.lut.valid = false := by
  have used : ∃ kind j r, s.lut = ⟨true, kind, j, r⟩ ∧ t.lut = LutTag.empty := by
    rcases gather with ⟨r, j, rfl⟩ | ⟨j, rfl⟩ | ⟨n, j, rfl⟩
    · exact ⟨.v, j, r, execOn_gather (by simp [commandChecks]) rfl run active⟩
    · exact ⟨.b, j, 0, execOn_gather (by simp [commandChecks]) rfl run active⟩
    · exact ⟨.s, j, n, execOn_gather (by simp [commandChecks]) rfl run active⟩
  obtain ⟨kind, j, r, tag, consumed⟩ := used
  exact ⟨by rw [tag], by rw [consumed]; rfl⟩

/-! ### The host write that invalidates the table (R69, R241) -/

/-- A request is served as the access it means, direct or through the bus (R64). -/
theorem serveNext_translated {run : Instr → State.Of p → Result p} {s : State.Of p} {q : Request α} {a : HostAccess α}
    {rest : List (Request α)} (pending : s.pending = q :: rest) (meant : q.translate p = some a) :
    serveNext run s = serveAccess run a { s with pending := rest } := by
  rw [serveNext, pending]
  simp only [serve, meant]

theorem serveNext_inmemWrite {run : Instr → State.Of p → Result p} {s : State.Of p} {q : Request α}
    {rest : List (Request α)} {i : Nat} {v : α} (active : s.phase ≠ .fault) (pending : s.pending = q :: rest)
    (meant : q.translate p = some (.memWrite .inmem i v)) (below : i < p.capacity .inmem) :
    serveNext run s = .next ((s.served rest .accepted).setElem .inmem i v).dropTable := by
  have accepted : writable p .inmem i = true := (writable_iff .inmem i).2 ⟨below, nofun, nofun⟩
  rw [serveNext_translated pending meant, serveAccess, if_pos accepted]
  exact congrArg _ (writeElem_inmem (s := s.served rest .accepted) active i v)

/-- Settles O52: a keeper completes without touching the cache, a gather consumes what its tag check has found, and the
write to `INMEM` drops the table. -/
theorem tableSurvivesUntilUsed : Obligations.TableSurvivesUntilUsed := by
  refine ⟨fun i s t keeper ready run => ?_, fun i s t gather run _ ready => ?_,
    fun s t q rest i v active pending meant below run => ?_⟩
  · exact execOn_keeps_table keeper ready (exec_eq_execOn i s ▸ run)
  · exact execOn_gather_consumes gather (exec_eq_execOn i s ▸ run) (by rw [ready]; decide)
  · have written : step s = .next ((s.served rest .accepted).setElem .inmem i v).dropTable :=
      serveNext_inmemWrite active pending meant below
    cases written.symm.trans run
    exact ⟨rfl, rfl⟩

end Sys2Proof.Machine
